-- ==== Sys2Proof/Word.lean ====
section
/-! DEFINITION. The word types of the engine (R6, R41 of spec/): bytes, the 64-bit command and response words, the
32-bit status word and the 6-bit device register addresses. -/

namespace Sys2Proof

/-- A byte is 8 bits (R6). -/
abbrev Byte := BitVec 8

/-- A command or response word (R21, R41). -/
abbrev Word64 := BitVec 64

/-- The status view (R22). -/
abbrev Word32 := BitVec 32

/-- An address of the device register space, 0x00 to 0x3F (R26). -/
abbrev RegAddr := BitVec 6

end Sys2Proof
end

