-- ==== Sys2Proof/Config.lean ====
section
/-! DEFINITION. What is fixed for one machine: the implementation parameters (R4 of 00_scope.md), the events of the
bus (R10), and the open values: the answers of the transport and of the data-ready line (R9), and the length of a time
unit (R4, OPEN). The open values are opaque constants with no body. -/

namespace Sys2Proof

/-- How SETRATE packs the rate selector: `P_RATE_PACKING` (R4, R53, R72). -/
inductive RatePacking where
  | word13
  | byte5
deriving DecidableEq, Repr

/-- Bit order of a byte on the serial line: `P_BIT_ORDER` (R4, R33). No engine rule depends on it. -/
inductive BitOrder where
  | msbFirst
  | lsbFirst
deriving DecidableEq, Repr

/-- The parameters of R4. An address parameter has 6 bits, so it lies in [0x00, 0x3F] (D37); `P_GAP` is
`gapExtra + 1`, so it is at least 1. `Config.build?` refuses raw numbers that violate either. -/
structure Config where
  frameByte   : Byte
  addrAdcMode : RegAddr
  addrIfMode  : RegAddr
  addrData    : RegAddr
  addrId      : RegAddr
  addrFilt0   : RegAddr
  ratePacking : RatePacking
  gapExtra    : Nat
  bitOrder    : BitOrder
deriving DecidableEq, Repr

/-- `P_GAP`, an integer at least 1 (R4, R97). -/
def Config.gap (c : Config) : Nat := c.gapExtra + 1

/-- The values R4 gives each parameter in this spec (D5, D6, D14, D15, D29; log entry 7). -/
def Config.default : Config where
  frameByte   := 0x00#8
  addrAdcMode := 0x01#6
  addrIfMode  := 0x02#6
  addrData    := 0x04#6
  addrId      := 0x07#6
  addrFilt0   := 0x28#6
  ratePacking := .word13
  gapExtra    := 0
  bitOrder    := .msbFirst

/-- A configuration from raw numbers: refused when the framing byte is no byte, an address is outside
[0x00, 0x3F], or `P_GAP` is 0 (R4: "a model refuses a configuration that violates this"; D37). -/
def Config.build? (frame adcMode ifMode data ident filt0 : Nat) (packing : RatePacking) (gap : Nat)
    (order : BitOrder) : Option Config :=
  if frame ≤ 0xFF ∧ adcMode ≤ 0x3F ∧ ifMode ≤ 0x3F ∧ data ≤ 0x3F ∧ ident ≤ 0x3F ∧ filt0 ≤ 0x3F ∧ 1 ≤ gap then
    some
      { frameByte := BitVec.ofNat 8 frame, addrAdcMode := BitVec.ofNat 6 adcMode
        addrIfMode := BitVec.ofNat 6 ifMode, addrData := BitVec.ofNat 6 data
        addrId := BitVec.ofNat 6 ident, addrFilt0 := BitVec.ofNat 6 filt0
        ratePacking := packing, gapExtra := gap - 1, bitOrder := order }
  else none

/-- The bits of a byte in the order they go over the serial line (R33): a property of the transport. -/
def Config.lineBits (c : Config) (b : Byte) : List Bool :=
  match c.bitOrder with
  | .msbFirst => [b.getLsbD 7, b.getLsbD 6, b.getLsbD 5, b.getLsbD 4, b.getLsbD 3, b.getLsbD 2, b.getLsbD 1, b.getLsbD 0]
  | .lsbFirst => [b.getLsbD 0, b.getLsbD 1, b.getLsbD 2, b.getLsbD 3, b.getLsbD 4, b.getLsbD 5, b.getLsbD 6, b.getLsbD 7]

/-- The events of the bus trace (R8, R10). A level `true` is 1. -/
inductive BusEvent where
  /-- `X(out, in)`: one full-duplex byte exchange. -/
  | xchg (out inp : Byte)
  /-- `CS(l)`: the chip-select output is driven to `l`; 1 is deasserted. -/
  | cs (level : Bool)
  /-- `W(n)`: at least `n` time units pass with no other bus event. -/
  | wait (n : Nat)
  /-- `CFG`: the transport is asked to start with "mode 3" clocking. -/
  | cfg
  /-- `RDY(l)`: the data-ready input was sampled at level `l`; 0 is asserted. -/
  | rdy (level : Bool)
deriving DecidableEq, Repr

/-- FREE VALUE (R9, U1, U2, U3, U13; log entry 1): the byte the transport returns for the exchange that sends `out`
when the answers placed in State have run out. It may depend on everything emitted so far. It has no body. -/
opaque Config.oracleByte (sofar : List BusEvent) (out : Byte) : Byte

/-- FREE VALUE (R9, R18, U17; log entry 2): the level of `RDY_N` when the levels placed in State have run out. -/
opaque Config.oracleReady (sofar : List BusEvent) : Bool

/-- FREE VALUE (R4, U10; log entry 8): `P_TIME_UNIT`, the length of a time unit, OPEN in the spec. -/
opaque Config.timeUnit : Nat

end Sys2Proof
end

