-- ==== Sys2Proof/Syntax.lean ====
section
/-! DEFINITION. The commands of the engine, one constructor per row of spec/opcode_table.json (R42), and the lines of
its assembly language: commands (R56) and pseudo-instructions (R57). -/

namespace Sys2Proof

/-- A decoded command with its operand fields at the widths of R41. No operand is scaled, shifted or extended (R44). -/
inductive Instr where
  /-- `WRREG addr, len, b0, b1, b2` (R58). -/
  | wrreg (a : Byte) (len : BitVec 2) (b0 b1 b2 : Byte)
  /-- `RDREG addr, len` (R59). -/
  | rdreg (a : Byte) (len : BitVec 2)
  /-- `RESET` (R60). -/
  | reset
  /-- `RESYNC` (R61). -/
  | resync
  /-- `SETCH chan, en` (R62). -/
  | setch (a : Byte) (en : BitVec 1)
  /-- `SETMODE target` (R67). -/
  | setmode (a : Byte)
  /-- `RDSAMPLE` (R71). -/
  | rdsample
  /-- `SETRATE code` (R72). -/
  | setrate (a : Byte)
  /-- `TOSIGNED b0, b1, b2` (R73). -/
  | tosigned (b0 b1 b2 : Byte)
  /-- `INIT` (R76). -/
  | init
  /-- `RDYQ` (R74). -/
  | rdyq
deriving DecidableEq, Repr

/-- The operand of an assembled SETMODE: a mode's name or a number (R56). -/
inductive ModeOperand where
  | cc
  | sc
  | cr
  | num (n : Nat)
deriving DecidableEq, Repr

/-- One command as written in assembly, its operands still plain numbers (R56). An omitted byte is `none`. -/
inductive AsmCmd where
  | wrreg (addr len b0 : Nat) (b1 b2 : Option Nat)
  | rdreg (addr len : Nat)
  | reset
  | resync
  | setch (chan en : Nat)
  | setmode (target : ModeOperand)
  | rdsample
  | setrate (code : Nat)
  | tosigned (b0 b1 b2 : Nat)
  | init
  | rdyq
deriving DecidableEq, Repr

/-- One line of assembly: a command or a pseudo-instruction (R57). -/
inductive AsmLine where
  | cmd (c : AsmCmd)
  | wr8 (addr v : Nat)
  | wr16 (addr v : Nat)
  | wr24 (addr v : Nat)
  | rd8 (addr : Nat)
  | rd16 (addr : Nat)
  | rd24 (addr : Nat)
  | ench (chan : Nat)
  | disch (chan : Nat)
  | rdid
deriving DecidableEq, Repr

end Sys2Proof
end

