-- ==== Sys2Proof/WellFormed.lean ====
section
/-! DEFINITION. Well-formedness of assembly (R56): an operand that does not fit its field is an assembly error. A decoded
`Instr` carries each operand at exactly its field's width (R41), so it is well formed by its type, and the range checks of
the command rules are part of the commands' meanings (they give a status at run time, R56). -/

namespace Sys2Proof

/-- A byte operand fits its 8-bit field (R56: "a byte > 0xFF ... is an assembly error"). -/
def fitsByte (n : Nat) : Bool := decide (n ≤ 0xFF)

/-- A length operand fits the 2-bit field LEN (R56: "`len` > 3"). -/
def fitsLen (n : Nat) : Bool := decide (n ≤ 3)

/-- An enable operand fits the 1-bit field EN (R56: "`en` > 1"). -/
def fitsEn (n : Nat) : Bool := decide (n ≤ 1)

/-- An optional byte of WRREG: present and fitting, or omitted. -/
def optFitsByte : Option Nat → Bool
  | some n => fitsByte n
  | none => true

/-- Only "bytes beyond len may be omitted" (R56), and the written ones come first: DEDUCED, log entry 13. -/
def omissionsOk (len : Nat) (b1 b2 : Option Nat) : Bool :=
  (b1.isSome || (decide (len ≤ 1) && b2.isNone)) && (b2.isSome || decide (len ≤ 2))

/-- The number a SETMODE operand stands for (R56, R44). -/
def ModeOperand.value : ModeOperand → Nat
  | .cc => 0x00
  | .sc => 0x01
  | .cr => 0x02
  | .num n => n

/-- Every operand fits its field (R56). -/
def AsmCmd.wf : AsmCmd → Bool
  | .wrreg a len b0 b1 b2 =>
      fitsByte a && fitsLen len && fitsByte b0 && optFitsByte b1 && optFitsByte b2 && omissionsOk len b1 b2
  | .rdreg a len => fitsByte a && fitsLen len
  | .reset => true
  | .resync => true
  | .setch chan en => fitsByte chan && fitsEn en
  | .setmode t => fitsByte t.value
  | .rdsample => true
  | .setrate code => fitsByte code
  | .tosigned b0 b1 b2 => fitsByte b0 && fitsByte b1 && fitsByte b2
  | .init => true
  | .rdyq => true

/-- The value of a pseudo-instruction fits the bytes it is written as (log entry 13); a plain command is checked as
`AsmCmd.wf` says after expansion. -/
def AsmLine.valueFits : AsmLine → Bool
  | .cmd _ => true
  | .wr8 _ v => decide (v < 2 ^ 8)
  | .wr16 _ v => decide (v < 2 ^ 16)
  | .wr24 _ v => decide (v < 2 ^ 24)
  | .rd8 _ => true
  | .rd16 _ => true
  | .rd24 _ => true
  | .ench _ => true
  | .disch _ => true
  | .rdid => true

end Sys2Proof
end

