-- ==== Sys2Proof/Decode.lean ====
section
/-! DEFINITION. The 64-bit command word: its fields (R41), the operations (R42), decoding (R43, R44), and after it the
encoder and the assembler (R56, R57). -/

namespace Sys2Proof

/-! ## The fields of a command word (R41) -/

/-- `OP`, bits [3:0]. -/
def opField (w : Word64) : BitVec 4 := w.extractLsb' 0 4

/-- `A`, bits [15:8]. -/
def aField (w : Word64) : Byte := w.extractLsb' 8 8

/-- `LEN`, bits [17:16]. -/
def lenField (w : Word64) : BitVec 2 := w.extractLsb' 16 2

/-- `B0`, bits [31:24]. -/
def b0Field (w : Word64) : Byte := w.extractLsb' 24 8

/-- `B1`, bits [39:32]. -/
def b1Field (w : Word64) : Byte := w.extractLsb' 32 8

/-- `B2`, bits [47:40]. -/
def b2Field (w : Word64) : Byte := w.extractLsb' 40 8

/-- `EN`, bit [48]. -/
def enField (w : Word64) : BitVec 1 := w.extractLsb' 48 1

/-- The mask of field `A`. -/
def aMask : Word64 := 0x000000000000FF00#64

/-- The mask of field `LEN`. -/
def lenMask : Word64 := 0x0000000000030000#64

/-- The mask of fields `B0`, `B1` and `B2`. -/
def bytesMask : Word64 := 0x0000FFFFFF000000#64

/-- The mask of field `EN`. -/
def enMask : Word64 := 0x0001000000000000#64

/-! ## Decoding -/

/-- `fieldmask(op)`: the OR of the masks of the operand fields the operation uses (R42, R43). -/
def fieldMask (op : BitVec 4) : Word64 :=
  match op.toNat with
  | 0x1 => aMask ||| lenMask ||| bytesMask
  | 0x2 => aMask ||| lenMask
  | 0x5 => aMask ||| enMask
  | 0x6 => aMask
  | 0x8 => aMask
  | 0x9 => bytesMask
  | _ => 0#64

/-- The operation an `OP` value names, with the operands assembled from the word (R42, R44); `0x0` and `0xC` to `0xF`
name none. -/
def operation? (w : Word64) : Option Instr :=
  match (opField w).toNat with
  | 0x1 => some (.wrreg (aField w) (lenField w) (b0Field w) (b1Field w) (b2Field w))
  | 0x2 => some (.rdreg (aField w) (lenField w))
  | 0x3 => some .reset
  | 0x4 => some .resync
  | 0x5 => some (.setch (aField w) (enField w))
  | 0x6 => some (.setmode (aField w))
  | 0x7 => some .rdsample
  | 0x8 => some (.setrate (aField w))
  | 0x9 => some (.tosigned (b0Field w) (b1Field w) (b2Field w))
  | 0xA => some .init
  | 0xB => some .rdyq
  | _ => none

/-- Decoding a command word (R43). `none` is a word no row of the table matches: it gives ILLEGAL_CMD. -/
def decode (w : Word64) : Option Instr :=
  if w &&& ~~~ fieldMask (opField w) = (opField w).setWidth 64 then operation? w else none

/-- The host's view of the decoder: the table's rows are 64 bits wide, and bits above `nbits` are 0. -/
def decodeTableWord (nbits w : Nat) : Option Instr :=
  decode (BitVec.ofNat 64 (w % 2 ^ nbits))

/-! ## The opcode table (R42, R43) -/

/-- One row of the opcode table: a word is the row's when `(w & mask) = matchBits` (R43). -/
structure OpcodeRow where
  mnemonic  : String
  matchBits : Word64
  mask      : Word64
deriving DecidableEq, Repr

/-- The row matches the word (R43). -/
def OpcodeRow.accepts (r : OpcodeRow) (w : Word64) : Bool := w &&& r.mask == r.matchBits

/-- The eleven rows with the masks R43 lists. -/
def opcodeRows : List OpcodeRow :=
  [ ⟨"WRREG", 0x1#64, 0xFFFF000000FC00FF#64⟩
  , ⟨"RDREG", 0x2#64, 0xFFFFFFFFFFFC00FF#64⟩
  , ⟨"RESET", 0x3#64, 0xFFFFFFFFFFFFFFFF#64⟩
  , ⟨"RESYNC", 0x4#64, 0xFFFFFFFFFFFFFFFF#64⟩
  , ⟨"SETCH", 0x5#64, 0xFFFEFFFFFFFF00FF#64⟩
  , ⟨"SETMODE", 0x6#64, 0xFFFFFFFFFFFF00FF#64⟩
  , ⟨"RDSAMPLE", 0x7#64, 0xFFFFFFFFFFFFFFFF#64⟩
  , ⟨"SETRATE", 0x8#64, 0xFFFFFFFFFFFF00FF#64⟩
  , ⟨"TOSIGNED", 0x9#64, 0xFFFF000000FFFFFF#64⟩
  , ⟨"INIT", 0xA#64, 0xFFFFFFFFFFFFFFFF#64⟩
  , ⟨"RDYQ", 0xB#64, 0xFFFFFFFFFFFFFFFF#64⟩ ]

/-- The mnemonic of a command (R42). -/
def mnemonic : Instr → String
  | .wrreg _ _ _ _ _ => "WRREG"
  | .rdreg _ _ => "RDREG"
  | .reset => "RESET"
  | .resync => "RESYNC"
  | .setch _ _ => "SETCH"
  | .setmode _ => "SETMODE"
  | .rdsample => "RDSAMPLE"
  | .setrate _ => "SETRATE"
  | .tosigned _ _ _ => "TOSIGNED"
  | .init => "INIT"
  | .rdyq => "RDYQ"

/-! ## Encoding (R56) -/

/-- The `OP` value of a command (R42). -/
def opcode : Instr → BitVec 4
  | .wrreg _ _ _ _ _ => 0x1#4
  | .rdreg _ _ => 0x2#4
  | .reset => 0x3#4
  | .resync => 0x4#4
  | .setch _ _ => 0x5#4
  | .setmode _ => 0x6#4
  | .rdsample => 0x7#4
  | .setrate _ => 0x8#4
  | .tosigned _ _ _ => 0x9#4
  | .init => 0xA#4
  | .rdyq => 0xB#4

/-- The assembler's word: `OP | A << 8 | LEN << 16 | B0 << 24 | B1 << 32 | B2 << 40 | EN << 48` (R56). -/
def packWord (op : BitVec 4) (a : Byte) (len : BitVec 2) (b0 b1 b2 : Byte) (en : BitVec 1) : Word64 :=
  op.setWidth 64 ||| a.setWidth 64 <<< 8 ||| len.setWidth 64 <<< 16 ||| b0.setWidth 64 <<< 24
    ||| b1.setWidth 64 <<< 32 ||| b2.setWidth 64 <<< 40 ||| en.setWidth 64 <<< 48

/-- The word of a command, "with every unused field 0" (R56). -/
def encode : Instr → Word64
  | .wrreg a len b0 b1 b2 => packWord 0x1#4 a len b0 b1 b2 0#1
  | .rdreg a len => packWord 0x2#4 a len 0#8 0#8 0#8 0#1
  | .reset => packWord 0x3#4 0#8 0#2 0#8 0#8 0#8 0#1
  | .resync => packWord 0x4#4 0#8 0#2 0#8 0#8 0#8 0#1
  | .setch a en => packWord 0x5#4 a 0#2 0#8 0#8 0#8 en
  | .setmode a => packWord 0x6#4 a 0#2 0#8 0#8 0#8 0#1
  | .rdsample => packWord 0x7#4 0#8 0#2 0#8 0#8 0#8 0#1
  | .setrate a => packWord 0x8#4 a 0#2 0#8 0#8 0#8 0#1
  | .tosigned b0 b1 b2 => packWord 0x9#4 0#8 0#2 b0 b1 b2 0#1
  | .init => packWord 0xA#4 0#8 0#2 0#8 0#8 0#8 0#1
  | .rdyq => packWord 0xB#4 0#8 0#2 0#8 0#8 0#8 0#1

/-! ## The assembler (R56, R57) -/

/-- A number as a byte operand. -/
def byteOperand (n : Nat) : Byte := BitVec.ofNat 8 n

/-- An optional byte of WRREG: an omitted one "encode[s] as 0" (R56). -/
def optByteOperand : Option Nat → Byte
  | some n => byteOperand n
  | none => 0#8

/-- The command a line names, its operands taken as fields. -/
def AsmCmd.instr : AsmCmd → Instr
  | .wrreg a len b0 b1 b2 =>
      .wrreg (byteOperand a) (BitVec.ofNat 2 len) (byteOperand b0) (optByteOperand b1) (optByteOperand b2)
  | .rdreg a len => .rdreg (byteOperand a) (BitVec.ofNat 2 len)
  | .reset => .reset
  | .resync => .resync
  | .setch chan en => .setch (byteOperand chan) (BitVec.ofNat 1 en)
  | .setmode t => .setmode (byteOperand t.value)
  | .rdsample => .rdsample
  | .setrate code => .setrate (byteOperand code)
  | .tosigned b0 b1 b2 => .tosigned (byteOperand b0) (byteOperand b1) (byteOperand b2)
  | .init => .init
  | .rdyq => .rdyq

/-- The command a line stands for; `none` is an assembly error (R56). -/
def AsmCmd.toInstr? (c : AsmCmd) : Option Instr := if c.wf then some c.instr else none

/-- Byte `k` of a number, `k = 0` the least significant: `v[7:0]`, `v[15:8]`, `v[23:16]` (R57). -/
def byteOf (v k : Nat) : Nat := v / 2 ^ (8 * k) % 2 ^ 8

/-- The expansion of a line to one command (R57): "No pseudo-instruction expands to more than one command." -/
def AsmLine.expand (cfg : Config) : AsmLine → AsmCmd
  | .cmd c => c
  | .wr8 addr v => .wrreg addr 1 (byteOf v 0) none none
  | .wr16 addr v => .wrreg addr 2 (byteOf v 1) (some (byteOf v 0)) none
  | .wr24 addr v => .wrreg addr 3 (byteOf v 2) (some (byteOf v 1)) (some (byteOf v 0))
  | .rd8 addr => .rdreg addr 1
  | .rd16 addr => .rdreg addr 2
  | .rd24 addr => .rdreg addr 3
  | .ench chan => .setch chan 1
  | .disch chan => .setch chan 0
  | .rdid => .rdreg cfg.addrId.toNat 2

/-- The word a line assembles to; `none` is an assembly error (R56, R57). -/
def AsmLine.assemble? (cfg : Config) (l : AsmLine) : Option Word64 :=
  if l.valueFits then (l.expand cfg).toInstr?.map encode else none

end Sys2Proof
end

