-- ==== Sys2Proof/Machine/State.lean ====
section
/-! DEFINITION. The state of the engine as plain data: every register of 10_state.md, the parameters (R4), the records of
what is observed (R10), and the external inputs still to come (R9, R12). The engine has no memory of its own (R28). -/

namespace Sys2Proof.Machine

/-- The conversion mode `MODE` (R13). The bit patterns are in Machine/Flags.lean. -/
inductive ConvMode where
  /-- `0b00`, ContinuousConversion. -/
  | cc
  /-- `0b01`, SingleConversion. -/
  | sc
  /-- `0b10`, ContinuousRead. -/
  | cr
  /-- `0b11`, no mode set since the engine reset or the last device reset. -/
  | unknown
deriving DecidableEq, Repr

/-- The sticky protocol-violation flags `VIOL` (R17). -/
structure Viol where
  unsync  : Bool
  nocfg   : Bool
  overrun : Bool
deriving DecidableEq, Repr

/-- The status of a response (R77). -/
inductive Status where
  | ok
  | outOfRange
  | invalidMode
  | modeUnset
  | illegalCmd
deriving DecidableEq, Repr

/-- What a host read returned (R21, R22, R85). -/
inductive HostRead where
  | stat (v : Word32)
  | resp (v : Word64)
deriving DecidableEq, Repr

/-- One outside turn: what the host or the reset input does before the engine's next turn (R12, R20, R22, R90). -/
inductive HostTurn where
  /-- The host writes a word to `CMD` (R20). -/
  | write (w : Word64)
  /-- The host reads `STAT` (R22). -/
  | readStat
  /-- The host reads `RESP` (R21). -/
  | readResp
  /-- The engine reset arrives; a running command is abandoned after `k` of its bus events (R90). -/
  | reset (k : Nat)
  /-- Nothing arrives: the engine has its turn. -/
  | idle
deriving DecidableEq, Repr

/-- The whole state. A level `true` is 1. -/
structure State where
  /-- The parameters, fixed for the machine (R4). -/
  cfg       : Config
  /-- `MODE` (R13). -/
  mode      : ConvMode
  /-- `CS_N`, the chip-select output (R15). -/
  csN       : Bool
  /-- `XCFG` (R16). -/
  xcfg      : Bool
  /-- `VIOL` (R17). -/
  viol      : Viol
  /-- `BUSY` (R20). -/
  busy      : Bool
  /-- `CMD` (R19). -/
  cmd       : Word64
  /-- `RESP` (R21). -/
  resp      : Word64
  /-- The bus trace, oldest event first (R10, R38). -/
  trace     : List BusEvent
  /-- The responses given, oldest first (R10). -/
  responses : List Word64
  /-- What the host's reads returned, oldest first (R21, R22). -/
  reads     : List HostRead
  /-- The model's own: the bytes the transport will answer with, next one first (R9; log entry 1). -/
  rxIn      : List Byte
  /-- The model's own: the levels `RDY_N` will show, next one first (R9, R18; log entry 2). -/
  rdyIn     : List Bool
  /-- The model's own: the outside turns to come, next one first (R12; log entry 3). -/
  hostIn    : List HostTurn
deriving DecidableEq, Repr

/-- There is no fault: "No behaviour of the engine is `stuck` or `fault`: every command either completes or is refused
with a status, and no input can stop the engine" (Part U of 93_implementation_defined.md; log entry 16). -/
inductive Fault where
deriving DecidableEq, Repr

/-- Why the model itself would decline a step. -/
inductive Refusal where
  /-- Raised by exec for an instruction that has no meaning yet (safe). Every instruction has one, so nothing raises it. -/
  | notModelled (mnemonic : String)
deriving DecidableEq, Repr

/-- No protocol violation recorded (R17). -/
def Viol.none : Viol := ⟨false, false, false⟩

/-- The machine right after the engine reset (R90, R92). `CMD` is unspecified (R19, U4): 0, a DESIGN CHOICE (log entry 6).
Nothing is observed yet and no input is placed. -/
def State.reset : State where
  cfg       := Config.default
  mode      := .unknown
  csN       := true
  xcfg      := false
  viol      := Viol.none
  busy      := false
  cmd       := 0#64
  resp      := 0#64
  trace     := []
  responses := []
  reads     := []
  rxIn      := []
  rdyIn     := []
  hostIn    := []

end Sys2Proof.Machine
end

