-- ==== Sys2Proof/Machine/Flags.lean ====
section
/-! DEFINITION. Flag computations: the codes of the statuses (R77), the bit patterns of MODE and VIOL (R13, R17), the
response word (R21), the status view (R22), and what an exchange does to VIOL (R17). -/

namespace Sys2Proof.Machine

/-- The bit pattern of `MODE` (R13). -/
def modeBits : ConvMode → BitVec 2
  | .cc => 0b00#2
  | .sc => 0b01#2
  | .cr => 0b10#2
  | .unknown => 0b11#2

/-- The number of a status (R77). -/
def statusCode : Status → Byte
  | .ok => 0#8
  | .outOfRange => 1#8
  | .invalidMode => 2#8
  | .modeUnset => 3#8
  | .illegalCmd => 7#8

/-- The bit pattern of `VIOL`: bit 0 UNSYNC, bit 1 NOCFG, bit 2 OVERRUN (R17). -/
def violBits (v : Viol) : BitVec 3 :=
  BitVec.ofBool v.overrun ++ BitVec.ofBool v.nocfg ++ BitVec.ofBool v.unsync

/-- `VIOL` after an exchange made with these levels of `CS_N` and `XCFG` (R17). -/
def violOnExchange (csN xcfg : Bool) (v : Viol) : Viol :=
  { v with unsync := v.unsync || csN, nocfg := v.nocfg || !xcfg }

/-- The data fields of a response that a command names; the others stay 0 (R21). -/
structure RespFields where
  flag  : Bool := false
  d0    : Byte := 0#8
  d1    : Byte := 0#8
  d2    : Byte := 0#8
  value : BitVec 16 := 0#16
deriving DecidableEq, Repr

/-- The response word, high bits first: [63:60] 0, OPC, VALUE, D2, D1, D0, [15:9] 0, FLAG, STATUS (R21). -/
def respWord (st : Status) (opc : BitVec 4) (f : RespFields) : Word64 :=
  0#4 ++ opc ++ f.value ++ f.d2 ++ f.d1 ++ f.d0 ++ 0#7 ++ BitVec.ofBool f.flag ++ statusCode st

/-- `RESP.STATUS`, bits [7:0] (R21). -/
def respStatus (r : Word64) : Byte := r.extractLsb' 0 8

/-- `RESP.FLAG`, bit [8] (R21). -/
def respFlag (r : Word64) : Bool := r.getLsbD 8

/-- `RESP.D0`, bits [23:16] (R21). -/
def respD0 (r : Word64) : Byte := r.extractLsb' 16 8

/-- `RESP.D1`, bits [31:24] (R21). -/
def respD1 (r : Word64) : Byte := r.extractLsb' 24 8

/-- `RESP.D2`, bits [39:32] (R21). -/
def respD2 (r : Word64) : Byte := r.extractLsb' 32 8

/-- `RESP.VALUE`, bits [55:40] (R21). -/
def respValue (r : Word64) : BitVec 16 := r.extractLsb' 40 16

/-- `RESP.OPC`, bits [59:56] (R21). -/
def respOpc (r : Word64) : BitVec 4 := r.extractLsb' 56 4

/-- The view `STAT`: bit 0 BUSY, [2:1] MODE, 3 CS_N, 4 XCFG, [7:5] VIOL, [31:8] 0 (R22). -/
def statWord (s : State) : Word32 :=
  0#24 ++ violBits s.viol ++ BitVec.ofBool s.xcfg ++ BitVec.ofBool s.csN ++ modeBits s.mode ++ BitVec.ofBool s.busy

end Sys2Proof.Machine
end

