-- ==== Sys2Proof/Machine/Operands.lean ====
section
/-! DEFINITION. Operand forms: the range checks of the command rules, the bytes of the bus encoding (R45, R46), the fields
the engine writes into device registers (R50 to R53), the identity check (R75) and the sample interpreter (R70). -/

namespace Sys2Proof.Machine

/-! ## Range checks (R58, R59, R62, R67, R72) -/

/-- `addr` lies in [0x00, 0x3F] (R58, R59). -/
def addrInRange (a : Byte) : Bool := decide (a.toNat ≤ 0x3F)

/-- `LEN` is 1, 2 or 3 (R35, R44). -/
def lenInRange (len : BitVec 2) : Bool := decide (len.toNat ≠ 0)

/-- `chan` lies in [0x10, 0x1F] (R62). -/
def chanInRange (a : Byte) : Bool := decide (0x10 ≤ a.toNat ∧ a.toNat ≤ 0x1F)

/-- The rate code fits its field: always under WORD13, at most 0x1F under BYTE5 (R72). -/
def rateInRange (p : RatePacking) (code : Byte) : Bool :=
  match p with
  | .word13 => true
  | .byte5 => decide (code.toNat ≤ 0x1F)

/-- The mode a SETMODE target names (R44, R67); `none` is "any other input". -/
def targetMode? (a : Byte) : Option ConvMode :=
  match a.toNat with
  | 0x00 => some .cc
  | 0x01 => some .sc
  | 0x02 => some .cr
  | _ => none

/-- The register address a byte operand names: `A[5:0]` (R44). -/
def regAddr (a : Byte) : RegAddr := a.setWidth 6

/-! ## The command byte (R46) -/

/-- The command byte of a write: bits 7 and 6 are 0. -/
def writeCommand (a : RegAddr) : Byte := a.setWidth 8

/-- The command byte of a read: bit 7 is 0, bit 6 is 1. -/
def readCommand (a : RegAddr) : Byte := 0x40#8 ||| a.setWidth 8

/-! ## Device register fields -/

/-- `idx = chan & 0x0F` (R50, R62). -/
def channelIndex (a : Byte) : Nat := (a &&& 0x0F#8).toNat

/-- Channel byte 0: bit 7 is the enable, bits [6:0] as read (R50, R62). -/
def channelByte0 (en : BitVec 1) (old : Byte) : Byte := (old &&& 0x7F#8) ||| en.setWidth 8 <<< 7

/-- Channel byte 1: `trunc8((idx << 5) | (idx + 1))`, not depending on what was read (R50, R62, R63; C1). -/
def channelByte1 (a : Byte) : Byte :=
  BitVec.ofNat 8 ((channelIndex a <<< 5) ||| (channelIndex a + 1))

/-- IFMODE byte 1 with the continuous-read-enable bit cleared (R51, R65). -/
def clearContRead (b : Byte) : Byte := b &&& 0xF7#8

/-- IFMODE byte 1 with the continuous-read-enable bit set (R51, R65). -/
def setContRead (b : Byte) : Byte := b ||| 0x08#8

/-- ADCMODE byte 1 with mode field `0b000` (R52, R65). -/
def adcModeCC (b : Byte) : Byte := b &&& 0x8F#8

/-- ADCMODE byte 1 with mode field `0b001` (R52, R65). -/
def adcModeSC (b : Byte) : Byte := (b &&& 0x8F#8) ||| 0x10#8

/-- Filter byte 0 (R53, R72). -/
def filterByte0 (p : RatePacking) (v0 : Byte) : Byte :=
  match p with
  | .word13 => v0 &&& 0xE0#8
  | .byte5 => v0

/-- Filter byte 1 (R53, R72). -/
def filterByte1 (p : RatePacking) (code v1 : Byte) : Byte :=
  match p with
  | .word13 => code
  | .byte5 => (v1 &&& 0xE0#8) ||| (code &&& 0x1F#8)

/-- `IdValid(id)` (R54, R75): byte 1 bits [3:0] are not checked. -/
def idValid (id0 id1 : Byte) : Bool := id0 == 0x30#8 && (id1 &&& 0xF0#8) == 0xD0#8

/-! ## The sample interpreter (R70) -/

/-- `raw10`: `raw[0]` gives bits [9:2], `raw[1]` bits [1:0] give bits [1:0] (R70; C3). -/
def raw10 (r0 r1 : Byte) : Nat := (r0.toNat <<< 2) ||| (r1.toNat &&& 0x03)

/-- `ToSigned(raw)`, on unbounded integers; `raw[2]` is unused (R70). -/
def toSigned (r0 r1 _r2 : Byte) : Int := ((raw10 r0 r1 : Int) - 512) * 2

/-- The 16-bit two's-complement pattern of `ToSigned` (R70, D23). -/
def signedValue (r0 r1 r2 : Byte) : BitVec 16 := BitVec.ofInt 16 (toSigned r0 r1 r2)

end Sys2Proof.Machine
end

