-- ==== Sys2Proof/Machine/Ops.lean ====
section
/-! DEFINITION. The named operations every command rule is written with (R8): the bus primitives, the two transactions
(R30, R31), ending a command by a response (R21) or by a status (R78), and what the host and the reset input do (R20, R22,
R90). The engine has no traps (R82): `raiseStatus` is its one way to refuse. -/

namespace Sys2Proof.Machine

/-! ## Bus primitives (R8) -/

/-- Appends an event to the bus trace (R10, R38). -/
def emit (e : BusEvent) (s : State) : State := { s with trace := s.trace ++ [e] }

/-- The byte the transport returns for an exchange sending `out`: the next answer placed in State, or, when none is left,
the oracle's (R9; log entry 1). -/
def nextByte (s : State) (out : Byte) : Byte :=
  match s.rxIn with
  | b :: _ => b
  | [] => Config.oracleByte s.trace out

/-- The level `RDY_N` shows now, in the same form (R9, R18; log entry 2). -/
def nextLevel (s : State) : Bool :=
  match s.rdyIn with
  | l :: _ => l
  | [] => Config.oracleReady s.trace

/-- `Xchg(out) -> in`: sets the violation flags (R17) and performs the exchange, which appends `X(out, in)` (R8). -/
def xchg (out : Byte) (s : State) : Byte × State :=
  (nextByte s out,
    { s with
      viol := violOnExchange s.csN s.xcfg s.viol
      rxIn := s.rxIn.tail
      trace := s.trace ++ [.xchg out (nextByte s out)] })

/-- Exchanges in order, each complete before the next begins (R38); the received bytes in the same order. -/
def xchgs : List Byte → State → List Byte × State
  | [], s => ([], s)
  | out :: outs, s =>
      let first := xchg out s
      let rest := xchgs outs first.2
      (first.1 :: rest.1, rest.2)

/-- `CsDrive(l)`: `CS_N <- l` and the event `CS(l)` (R8). -/
def csDrive (l : Bool) (s : State) : State := emit (.cs l) { s with csN := l }

/-- `Wait(P_GAP)`: at least `P_GAP` time units pass (R8, R86, R97). -/
def waitGap (s : State) : State := emit (.wait s.cfg.gap) s

/-- `XportBegin()`: the event `CFG`, and `XCFG <- 1` (R8, R16). -/
def xportBegin (s : State) : State := emit .cfg { s with xcfg := true }

/-- `ReadRdy() -> l`: samples the data-ready input (R8, R18). -/
def readRdy (s : State) : Bool × State :=
  (nextLevel s, { s with rdyIn := s.rdyIn.tail, trace := s.trace ++ [.rdy (nextLevel s)] })

/-- The chip-select toggle of RESYNC and INIT (R61, R76): deassert, wait, reassert. -/
def resyncLine (s : State) : State := csDrive false (waitGap (csDrive true s))

/-! ## Transactions (R29, R30, R31) -/

/-- `MemWrite(addr, n, b)`: framing byte, write command byte, then `b[0]` to `b[n-1]`; received bytes are discarded (R30). -/
def memWrite (a : RegAddr) (n : Nat) (b : List Byte) (s : State) : State :=
  (xchgs (s.cfg.frameByte :: writeCommand a :: b.take n) s).2

/-- `MemRead(addr, n) -> b`: framing byte, read command byte, `n` filler bytes 0x00; the bytes received on the last `n`
exchanges, in order, unchanged (R31). -/
def memRead (a : RegAddr) (n : Nat) (s : State) : List Byte × State :=
  let r := xchgs (s.cfg.frameByte :: readCommand a :: List.replicate n 0x00#8) s
  (r.1.drop 2, r.2)

/-- Byte `i` of a received byte sequence (R6). -/
def byteAt (b : List Byte) (i : Nat) : Byte := b.getD i 0#8

/-- A 2-byte read-modify-write, two transactions (R36, R62, R65, R72): byte `i` is written back as `fi` of byte `i`
read. -/
def modify2 (a : RegAddr) (f0 f1 : Byte → Byte) (s : State) : State :=
  let r := memRead a 2 s
  memWrite a 2 [f0 (byteAt r.1 0), f1 (byteAt r.1 1)] r.2

/-! ## Ending a command -/

/-- Writes the response once, ends the command, and records the response (R10, R20, R21). -/
def finish (r : Word64) (s : State) : State :=
  { s with resp := r, busy := false, responses := s.responses ++ [r] }

/-- `respond(fields)`: STATUS = 0, OPC = CMD.OP, the named fields, every other bit 0 (R21). -/
def respond (f : RespFields) (s : State) : State := finish (respWord .ok (opField s.cmd) f) s

/-- `raise S()`: RESP holds the code of S and OPC = CMD.OP, every other bit 0; BUSY <- 0 (R78). -/
def raiseStatus (st : Status) (s : State) : State := finish (respWord st (opField s.cmd) {}) s

/-! ## The host and the reset input -/

/-- The host writes `CMD` (R20): accepted when `BUSY = 0`, else discarded with `VIOL.OVERRUN <- 1`. -/
def hostWrite (w : Word64) (s : State) : State :=
  if s.busy then { s with viol := { s.viol with overrun := true } }
  else { s with cmd := w, busy := true }

/-- The host reads `STAT`; reading it has no effect (R22). -/
def hostReadStat (s : State) : State := { s with reads := s.reads ++ [.stat (statWord s)] }

/-- The host reads `RESP` (R21). -/
def hostReadResp (s : State) : State := { s with reads := s.reads ++ [.resp s.resp] }

/-- The engine reset (R90): every register takes its reset value; no bus event. What was observed and what is still to
come from outside stays. -/
def engineReset (s : State) : State :=
  { s with
    mode := .unknown
    csN := true
    xcfg := false
    viol := Viol.none
    busy := false
    cmd := 0#64
    resp := 0#64 }

/-- How many answers of the transport a list of events used. -/
def countXchg : List BusEvent → Nat
  | [] => 0
  | .xchg _ _ :: es => countXchg es + 1
  | _ :: es => countXchg es

/-- How many samples of the data-ready line a list of events used. -/
def countRdy : List BusEvent → Nat
  | [] => 0
  | .rdy _ :: es => countRdy es + 1
  | _ :: es => countRdy es

/-- The engine reset arriving in a running command, whose first bus events `done` have been emitted: the command is
abandoned, its other events are not emitted and it writes no response (R90, U21; log entry 5). -/
def abandon (done : List BusEvent) (s : State) : State :=
  engineReset
    { s with
      trace := s.trace ++ done
      rxIn := s.rxIn.drop (countXchg done)
      rdyIn := s.rdyIn.drop (countRdy done) }

end Sys2Proof.Machine
end

