-- ==== Sys2Proof/Machine/Channel.lean ====
section
/-! DEFINITION. The channel configurator (41_channel.md): SETCH. -/

namespace Sys2Proof.Machine

/-- SETCH (R62): byte 0 keeps its non-enable bits, byte 1 is regenerated (R63). -/
def execSetch (a : Byte) (en : BitVec 1) (s : State) : Host.Outcome State Fault Refusal :=
  if chanInRange a then
    .next (respond {} (modify2 (regAddr a) (channelByte0 en) (fun _ => channelByte1 a) s))
  else .next (raiseStatus .outOfRange s)

end Sys2Proof.Machine
end

