-- ==== Sys2Proof/Machine/Conversion.lean ====
section
/-! DEFINITION. The conversion reader, the data rate, the sample interpreter and the data-ready query (43_conversion.md):
RDSAMPLE, SETRATE, TOSIGNED, RDYQ. -/

namespace Sys2Proof.Machine

/-- The response of a sample read: the three bytes and `VALUE` (R71, D18). -/
def sampleFields (raw : List Byte) : RespFields :=
  { d0 := byteAt raw 0
    d1 := byteAt raw 1
    d2 := byteAt raw 2
    value := signedValue (byteAt raw 0) (byteAt raw 1) (byteAt raw 2) }

/-- RDSAMPLE (R71, R32; C2, C9): in CR three filler exchanges with no addressing; in CC and SC the addressed form. -/
def execRdsample (s : State) : Host.Outcome State Fault Refusal :=
  match s.mode with
  | .unknown => .next (raiseStatus .modeUnset s)
  | .cr =>
      let r := xchgs (List.replicate 3 0x00#8) s
      .next (respond (sampleFields r.1) r.2)
  | .cc =>
      let r := memRead s.cfg.addrData 3 s
      .next (respond (sampleFields r.1) r.2)
  | .sc =>
      let r := memRead s.cfg.addrData 3 s
      .next (respond (sampleFields r.1) r.2)

/-- SETRATE (R72). -/
def execSetrate (code : Byte) (s : State) : Host.Outcome State Fault Refusal :=
  if rateInRange s.cfg.ratePacking code then
    .next (respond {}
      (modify2 s.cfg.addrFilt0 (filterByte0 s.cfg.ratePacking) (filterByte1 s.cfg.ratePacking code) s))
  else .next (raiseStatus .outOfRange s)

/-- TOSIGNED (R73). -/
def execTosigned (b0 b1 b2 : Byte) (s : State) : Host.Outcome State Fault Refusal :=
  .next (respond { value := signedValue b0 b1 b2 } s)

/-- RDYQ (R74): readiness is active-low. -/
def execRdyq (s : State) : Host.Outcome State Fault Refusal :=
  let r := readRdy s
  .next (respond { flag := !r.1 } r.2)

end Sys2Proof.Machine
end

