-- ==== Sys2Proof/Machine/Init.lean ====
section
/-! DEFINITION. Initialisation (44_init.md): INIT. -/

namespace Sys2Proof.Machine

/-- INIT (R76): transport start, resync, identity read; an identity mismatch is FLAG = 0 with STATUS = 0 (R79). -/
def execInit (s : State) : Host.Outcome State Fault Refusal :=
  let ready := resyncLine (xportBegin s)
  let r := memRead ready.cfg.addrId 2 ready
  .next (respond
    { flag := idValid (byteAt r.1 0) (byteAt r.1 1)
      d0 := byteAt r.1 0
      d1 := byteAt r.1 1 } r.2)

end Sys2Proof.Machine
end

