-- ==== Sys2Proof/Machine/Mode.lean ====
section
/-! DEFINITION. The conversion-mode state machine (42_mode.md): the four sub-actions (R65), the transition table (R66) and
SETMODE (R67). -/

namespace Sys2Proof.Machine

/-- `ClrCR` (R65). -/
def clrCR (s : State) : State := modify2 s.cfg.addrIfMode id clearContRead s

/-- `SetCR` (R65). -/
def setCR (s : State) : State := modify2 s.cfg.addrIfMode id setContRead s

/-- `AdcCC` (R65). -/
def adcCC (s : State) : State := modify2 s.cfg.addrAdcMode id adcModeCC s

/-- `AdcSC` (R65). -/
def adcSC (s : State) : State := modify2 s.cfg.addrAdcMode id adcModeSC s

/-- The actions of a row of the transition table, in order; they do not depend on the current `MODE` (R66; C4, D17). No
row asks for UNKNOWN. -/
def modeActions (target : ConvMode) (s : State) : State :=
  match target with
  | .cc => adcCC (clrCR s)
  | .sc => adcSC (clrCR s)
  | .cr => setCR (adcCC (clrCR (clrCR s)))
  | .unknown => s

/-- SETMODE (R67): the target is checked before any bus event; `MODE` is written once, at the end. -/
def execSetmode (a : Byte) (s : State) : Host.Outcome State Fault Refusal :=
  match targetMode? a with
  | some m => .next (respond {} { modeActions m s with mode := m })
  | none => .next (raiseStatus .invalidMode s)

end Sys2Proof.Machine
end

