-- ==== Sys2Proof/Machine/Transactions.lean ====
section
/-! DEFINITION. The register transactions, the device reset and the resync (40_transactions.md): WRREG, RDREG, RESET,
RESYNC. -/

namespace Sys2Proof.Machine

/-- WRREG (R58). -/
def execWrreg (a : Byte) (len : BitVec 2) (b0 b1 b2 : Byte) (s : State) : Host.Outcome State Fault Refusal :=
  if addrInRange a && lenInRange len then
    .next (respond {} (memWrite (regAddr a) len.toNat [b0, b1, b2] s))
  else .next (raiseStatus .outOfRange s)

/-- RDREG (R59). -/
def execRdreg (a : Byte) (len : BitVec 2) (s : State) : Host.Outcome State Fault Refusal :=
  if addrInRange a && lenInRange len then
    let r := memRead (regAddr a) len.toNat s
    .next (respond
      { d0 := byteAt r.1 0
        d1 := if 2 ≤ len.toNat then byteAt r.1 1 else 0#8
        d2 := if len.toNat = 3 then byteAt r.1 2 else 0#8 } r.2)
  else .next (raiseStatus .outOfRange s)

/-- RESET (R60): the pattern of R48, then `MODE <- UNKNOWN`. -/
def execReset (s : State) : Host.Outcome State Fault Refusal :=
  .next (respond {} { (xchgs (List.replicate 16 0xFF#8) s).2 with mode := .unknown })

/-- RESYNC (R61). -/
def execResync (s : State) : Host.Outcome State Fault Refusal :=
  .next (respond {} (resyncLine s))

end Sys2Proof.Machine
end

