-- ==== Sys2Proof/Machine/Dispatch.lean ====
section
/-! DEFINITION. One arm per command (R42). -/

namespace Sys2Proof.Machine

def exec (i : Instr) (s : State) : Host.Outcome State Fault Refusal :=
  match i with
  | .wrreg a len b0 b1 b2 => Sys2Proof.Machine.execWrreg a len b0 b1 b2 s
  | .rdreg a len => Sys2Proof.Machine.execRdreg a len s
  | .reset => Sys2Proof.Machine.execReset s
  | .resync => Sys2Proof.Machine.execResync s
  | .setch a en => Sys2Proof.Machine.execSetch a en s
  | .setmode a => Sys2Proof.Machine.execSetmode a s
  | .rdsample => Sys2Proof.Machine.execRdsample s
  | .setrate a => Sys2Proof.Machine.execSetrate a s
  | .tosigned b0 b1 b2 => Sys2Proof.Machine.execTosigned b0 b1 b2 s
  | .init => Sys2Proof.Machine.execInit s
  | .rdyq => Sys2Proof.Machine.execRdyq s

end Sys2Proof.Machine
end

