-- ==== Sys2Proof/Machine/Turn.lean ====
section
/-! DEFINITION. What one step does (R12, R20, R90, R104): an outside turn if one is next, else the engine's turn. Here, and
not in Step.lean, so that a repair can mend it. -/

namespace Sys2Proof.Machine

/-- Runs the command held in `CMD`: the command it decodes to, or ILLEGAL_CMD (R20, R43). -/
def runCommand (s : State) : Host.Outcome State Fault Refusal :=
  match decode s.cmd with
  | some i => exec i s
  | none => .next (raiseStatus .illegalCmd s)

/-- The engine's turn: a command that was accepted runs to its end (D25); with none the engine is idle and holds its
state (R89, R90). -/
def engineTurn (s : State) : Host.Outcome State Fault Refusal :=
  if s.busy then runCommand s else .next s

/-- The engine reset arrives (R90): a running command is abandoned after its first `k` bus events; an idle engine is just
reset. -/
def resetTurn (k : Nat) (s : State) : Host.Outcome State Fault Refusal :=
  if s.busy then
    match runCommand s with
    | .next t => .next (abandon ((t.trace.drop s.trace.length).take k) s)
    | .fault r => .fault r
    | .refused r => .refused r
  else .next (engineReset s)

/-- One outside turn, or the engine's. -/
def takeTurn (t : HostTurn) (s : State) : Host.Outcome State Fault Refusal :=
  match t with
  | .write w => .next (hostWrite w s)
  | .readStat => .next (hostReadStat s)
  | .readResp => .next (hostReadResp s)
  | .reset k => resetTurn k s
  | .idle => engineTurn s

/-- One step: the next turn placed in State, or the engine's when none is left (log entries 3, 4). -/
def turnStep (s : State) : Host.Outcome State Fault Refusal :=
  match s.hostIn with
  | [] => engineTurn s
  | t :: ts => takeTurn t { s with hostIn := ts }

/-- The outside turns with the engine's turn put first. -/
def engineFirst : List HostTurn → List HostTurn
  | [] => []
  | t :: ts => .idle :: t :: ts

/-- `s` with the command word accepted in `CMD`, so that the next step runs it (R19, R20; log entry 10). -/
def withAccepted (w : Word64) (s : State) : State :=
  { s with cmd := w, busy := true, hostIn := engineFirst s.hostIn }

end Sys2Proof.Machine
end

