-- ==== Sys2Proof/Machine/Step.lean ====
section
/-! DEFINITION. The step of the machine, and the placing of a command word where the next step takes it from. -/

namespace Sys2Proof.Machine

/-- One step of the machine. -/
def step (s : State) : Host.Outcome State Fault Refusal := turnStep s

/-- `s` with the word (its bits from `nbits` up 0) accepted in `CMD`, the place the engine takes its command from. -/
def State.withFetchWord (s : State) (nbits w : Nat) : State :=
  withAccepted (BitVec.ofNat 64 (w % 2 ^ nbits)) s

end Sys2Proof.Machine
end

