-- ==== Sys2Proof/Safety.lean ====
section
/-! DEFINITION. The terms claims are made in: a run inside the contract (R81), the end of a run and its final state (R104),
that a command is running (R20), that received bytes and levels come from outside (R9), the least time a trace takes (R86, R103), and the
invariant of the engine's registers. -/

namespace Sys2Proof.Machine

/-- No protocol violation has been recorded (R81). -/
def inContract (s : State) : Bool := s.viol == Viol.none

/-- The turn is the host's write of a command word (R20). -/
def HostTurn.isWrite : HostTurn → Bool
  | .write _ => true
  | .readStat => false
  | .readResp => false
  | .reset _ => false
  | .idle => false

/-- The run has ended: the host has written its last command word, and `BUSY = 0` (R104). Reads, idle turns and an engine
reset may still be to come: they are after the end. -/
def runEnded (s : State) : Bool := !s.hostIn.any HostTurn.isWrite && !s.busy

/-- What the end of a run leaves: "the engine registers and the bus trace so far" (R104). -/
structure FinalState where
  mode  : ConvMode
  csN   : Bool
  xcfg  : Bool
  viol  : Viol
  busy  : Bool
  cmd   : Word64
  resp  : Word64
  trace : List BusEvent
deriving DecidableEq, Repr

/-- The engine registers and the bus trace of a state (R104). -/
def finalState (s : State) : FinalState :=
  { mode := s.mode, csN := s.csN, xcfg := s.xcfg, viol := s.viol, busy := s.busy, cmd := s.cmd, resp := s.resp
    trace := s.trace }

/-- The first state of the run from `s` at which the run has ended, if it is reached in `n` steps. -/
def runToEnd : Nat → State → Option State
  | 0, s => if runEnded s then some s else none
  | n + 1, s =>
      if runEnded s then some s
      else
        match step s with
        | .next t => runToEnd n t
        | .fault _ => none
        | .refused _ => none

/-- The state in which the run from `s` ends (R104). Each step uses up an outside turn, or, when none is left, ends the
running command, so one step more than there are turns is enough. -/
def endOfRun (s : State) : Option State := runToEnd (s.hostIn.length + 1) s

/-- The run from `s` is inside the contract: `VIOL = 0` at its end, which a claim about a run takes as a premise (R81,
R104). -/
def runInContract (s : State) : Bool := (endOfRun s).any inContract

/-- The boot state every exchange needs so as to record no violation: chip-select asserted, transport started (R17, R93). -/
def busReady (s : State) : Bool := !s.csN && s.xcfg

/-- It is the engine's turn: no outside turn is left, or the next one is idle; `rest` are the turns after it (R12; log
entry 3). -/
def EngineMoves (s : State) (rest : List HostTurn) : Prop :=
  (s.hostIn = [] ∧ rest = []) ∨ s.hostIn = .idle :: rest

/-- The engine is running the command `i`: it was accepted (R20) and its word decodes to `i` (R43). -/
def Running (i : Instr) (s : State) : Prop := s.busy = true ∧ decode s.cmd = some i

/-- The events of `evs`, emitted after `sofar`, carry the answers of the outside: each received byte is the next of `rx`,
each sampled level the next of `rdy`, and the oracle's where none is left (R9; log entries 1, 2). -/
def EnvAnswers (rx : List Byte) (rdy : List Bool) (sofar : List BusEvent) : List BusEvent → Prop
  | [] => True
  | .xchg out inp :: evs =>
      inp = rx.headD (Config.oracleByte sofar out) ∧ EnvAnswers rx.tail rdy (sofar ++ [.xchg out inp]) evs
  | .rdy l :: evs =>
      l = rdy.headD (Config.oracleReady sofar) ∧ EnvAnswers rx rdy.tail (sofar ++ [.rdy l]) evs
  | .cs l :: evs => EnvAnswers rx rdy (sofar ++ [.cs l]) evs
  | .wait n :: evs => EnvAnswers rx rdy (sofar ++ [.wait n]) evs
  | .cfg :: evs => EnvAnswers rx rdy (sofar ++ [.cfg]) evs

/-- The bytes `r 0`, `r 1`, … a command receives are the answers placed in State, in order, as far as they reach; past
them they are whatever the outside gives (R9). -/
def Hears (s : State) (n : Nat) (r : Nat → Byte) : Prop :=
  ∀ k, k < n → ∀ b, s.rxIn[k]? = some b → r k = b

/-- The eight events of a 2-byte read-modify-write at `addr`; exchange number `k + j` of the command receives `r (k + j)`
(R30, R31, R62). -/
def rmwEvents (frame addr : Byte) (r : Nat → Byte) (k : Nat) (n0 n1 : Byte) : List BusEvent :=
  [ .xchg frame (r k), .xchg (0x40#8 ||| addr) (r (k + 1)), .xchg 0x00#8 (r (k + 2)), .xchg 0x00#8 (r (k + 3))
  , .xchg frame (r (k + 4)), .xchg addr (r (k + 5)), .xchg n0 (r (k + 6)), .xchg n1 (r (k + 7)) ]

/-- The time at least an event takes: only `Wait` has a bound (R86, R97, R103). -/
def minDuration : BusEvent → Nat
  | .wait n => n * Config.timeUnit
  | .xchg _ _ => 0
  | .cs _ => 0
  | .cfg => 0
  | .rdy _ => 0

/-- A response word of R21 and R77: reserved bits [63:60] and [15:9] are 0, and STATUS is 0, 1, 2, 3 or 7. -/
def respLegal (r : Word64) : Prop :=
  r &&& 0xF00000000000FE00#64 = 0#64 ∧
    (respStatus r = 0#8 ∨ respStatus r = 1#8 ∨ respStatus r = 2#8 ∨ respStatus r = 3#8 ∨ respStatus r = 7#8)

/-- The invariant of the engine: RESP and every response given are legal (R21, R77); once the transport is started the
chip-select is asserted (R15, R16, R76); and every wait on the bus lasts the parameter `P_GAP` (R61, R97). -/
structure EngineInv (s : State) : Prop where
  respLegal      : respLegal s.resp
  responsesLegal : ∀ r ∈ s.responses, Sys2Proof.Machine.respLegal r
  startedMeansSelected : s.xcfg = true → s.csN = false
  waitsAreGaps   : ∀ n, BusEvent.wait n ∈ s.trace → n = s.cfg.gap

end Sys2Proof.Machine
end

