-- ==== Sys2Proof/Certificates/Slice0/Obligations.lean ====
section
/-! DEFINITION. The statements about the engine, one `def Obligations.<Name> : Prop` each, from the numbered rules of
spec/. The words of the statements (the events of a transaction, the state after a command) come first, written from the
rules and not from the meanings. -/

namespace Sys2Proof.Claims

open Sys2Proof.Machine

/-- The state after a command that emitted `evs`, `n` of them exchanges, and answered `resp`. Every field that is not named
is unchanged (R10, R17, R20, R21). -/
def ended (s : State) (evs : List BusEvent) (n : Nat) (resp : Word64) : State :=
  { s with
    trace := s.trace ++ evs
    rxIn := s.rxIn.drop n
    viol :=
      { unsync := s.viol.unsync || (s.csN && decide (0 < n))
        nocfg := s.viol.nocfg || (!s.xcfg && decide (0 < n))
        overrun := s.viol.overrun }
    resp := resp
    responses := s.responses ++ [resp]
    busy := false }

/-- The state after a refused command: RESP, BUSY and the record of responses, nothing else (R78). -/
def refusedWith (s : State) (resp : Word64) : State :=
  { s with resp := resp, responses := s.responses ++ [resp], busy := false }

/-- The bytes the exchanges of a list of events send. -/
def sent : List BusEvent → List Byte
  | [] => []
  | .xchg out _ :: es => out :: sent es
  | _ :: es => sent es

/-- The bytes the exchanges of a list of events receive. -/
def heard : List BusEvent → List Byte
  | [] => []
  | .xchg _ inp :: es => inp :: heard es
  | _ :: es => heard es

/-- The events that are no exchanges. -/
def others : List BusEvent → List BusEvent
  | [] => []
  | .xchg _ _ :: es => others es
  | .cs l :: es => .cs l :: others es
  | .wait n :: es => .wait n :: others es
  | .cfg :: es => .cfg :: others es
  | .rdy l :: es => .rdy l :: others es

/-- The sub-list of two bytes from position `k`. -/
def pairAt (l : List Byte) (k : Nat) : List Byte := (l.drop k).take 2

/-- A later state in which the next command may run: nothing changed but what the host's turns in between change, namely the
word in `CMD`, `BUSY`, the turns still to come and the record of reads (R20, R22). With `busy := true` it is the state after
the host's write. -/
def later (t : State) (w : Word64) (b : Bool) (ts : List HostTurn) (rs : List HostRead) : State :=
  { t with cmd := w, busy := b, hostIn := ts, reads := rs }

/-- The fields of a command word are these numbers, and every reserved bit is 0 (R41). -/
def FieldsAre (w : Word64) (op a len b0 b1 b2 en : Nat) : Prop :=
  (opField w).toNat = op ∧ (aField w).toNat = a ∧ (lenField w).toNat = len ∧ (b0Field w).toNat = b0 ∧
  (b1Field w).toNat = b1 ∧ (b2Field w).toNat = b2 ∧ (enField w).toNat = en ∧ w &&& 0xFFFE000000FC00F0#64 = 0#64

/-- The line assembles, and its word decodes to the command `i`. -/
def AssemblesTo (cfg : Config) (l : AsmLine) (i : Instr) : Prop :=
  ∃ w, l.assemble? cfg = some w ∧ decode w = some i

/-- A command of the assembly language assembles exactly when its operands fit, and then has these fields. -/
def AssembledFields (c : AsmCmd) (fits : Prop) (op a len b0 b1 b2 en : Nat) : Prop :=
  ∀ cfg : Config,
    (fits → ∃ w, AsmLine.assemble? cfg (.cmd c) = some w ∧ FieldsAre w op a len b0 b1 b2 en) ∧
    (¬ fits → AsmLine.assemble? cfg (.cmd c) = none)

/-- Bit `k` of a byte is 0. -/
def bitClear (b : Byte) (k : Nat) : Prop := b.getLsbD k = false

/-- The status code R77 and R80 give the word in `CMD`, from its fields alone and `MODE`. -/
def expectedCode (s : State) : Byte :=
  let op := (opField s.cmd).toNat
  let a := (aField s.cmd).toNat
  if ¬ ∃ row ∈ opcodeRows, row.accepts s.cmd = true then 7#8
  else if (op = 0x1 ∨ op = 0x2) ∧ (0x3F < a ∨ lenField s.cmd = 0#2) then 1#8
  else if op = 0x5 ∧ (a < 0x10 ∨ 0x1F < a) then 1#8
  else if op = 0x8 ∧ s.cfg.ratePacking = .byte5 ∧ 0x1F < a then 1#8
  else if op = 0x6 ∧ a ≠ 0x00 ∧ a ≠ 0x01 ∧ a ≠ 0x02 then 2#8
  else if op = 0x7 ∧ s.mode = .unknown then 3#8
  else 0#8

/-- How many exchanges R49's table gives a command that completes. -/
def frameExchanges (i : Instr) (s : State) : Nat :=
  match i with
  | .wrreg _ len _ _ _ => len.toNat + 2
  | .rdreg _ len => len.toNat + 2
  | .reset => 16
  | .resync => 0
  | .setch _ _ => 8
  | .setmode a => if a = 0x02#8 then 32 else 16
  | .rdsample => if s.mode = .cr then 3 else 5
  | .setrate _ => 8
  | .tosigned _ _ _ => 0
  | .init => 4
  | .rdyq => 0

/-- Which other events R49's table gives a command that completes. -/
def FrameOthers (i : Instr) (s : State) (evs : List BusEvent) : Prop :=
  match i with
  | .wrreg _ _ _ _ _ => evs = []
  | .rdreg _ _ => evs = []
  | .reset => evs = []
  | .resync => evs = [.cs true, .wait s.cfg.gap, .cs false]
  | .setch _ _ => evs = []
  | .setmode _ => evs = []
  | .rdsample => evs = []
  | .setrate _ => evs = []
  | .tosigned _ _ _ => evs = []
  | .init => evs = [.cfg, .cs true, .wait s.cfg.gap, .cs false]
  | .rdyq => ∃ l, evs = [.rdy l]

end Sys2Proof.Claims

open Sys2Proof Sys2Proof.Machine Sys2Proof.Claims

/-! ## Encoding -/

/-- R41, R43, R44, R56: decoding the word of a command, with every operand at every value, gives the command back. -/
def Obligations.DecodeOfEncodeIsTheCommand : Prop :=
  ∀ i : Instr, decode (encode i) = some i

/-- R43: a word that decodes is the word of the command it decodes to, so every word has one meaning at most and no bit of
it is ignored. -/
def Obligations.EncodeOfDecodedWordIsTheWord : Prop :=
  ∀ (w : Word64) (i : Instr), decode w = some i → encode i = w

/-- R43: a word decodes as the operation of a row exactly when `(w & mask) = match` for that row. -/
def Obligations.DecodeAgreesWithOpcodeRows : Prop :=
  ∀ (w : Word64) (row : OpcodeRow), row ∈ opcodeRows →
    (row.accepts w = true ↔ ∃ i, decode w = some i ∧ mnemonic i = row.mnemonic)

/-- R43: no two rows overlap, and a word no row matches decodes as nothing. -/
def Obligations.OpcodeRowsAreDisjointAndComplete : Prop :=
  (∀ (w : Word64) (p q : OpcodeRow), p ∈ opcodeRows → q ∈ opcodeRows → p.accepts w = true → q.accepts w = true → p = q) ∧
  (∀ w : Word64, (∀ row ∈ opcodeRows, row.accepts w = false) ↔ decode w = none)

/-- R55: `OP` 0x0 and 0xC to 0xF are illegal, and so is every word with a 1 in a reserved bit. -/
def Obligations.ReservedOpsAndBitsDoNotDecode : Prop :=
  ∀ w : Word64,
    ((opField w).toNat = 0 ∨ 0xC ≤ (opField w).toNat ∨ w &&& 0xFFFE000000FC00F0#64 ≠ 0#64) → decode w = none

/-- Words of 95_test_vectors.md decode to the commands they stand for. -/
def Obligations.TestVectorWordsDecode : Prop :=
  decode 0x0000000000020712#64 = none ∧
  decode 0x0000776655033801#64 = some (.wrreg 0x38 3 0x55 0x66 0x77) ∧
  decode 0x0000000000033F02#64 = some (.rdreg 0x3F 3) ∧
  decode 0x0001000000001805#64 = some (.setch 0x18 1) ∧
  decode 0x0000000000000206#64 = some (.setmode 0x02) ∧
  decode 0x0000000000000A08#64 = some (.setrate 0x0A) ∧
  decode 0x0000230180000009#64 = some (.tosigned 0x80 0x01 0x23) ∧
  decode 0x000000000000000A#64 = some .init

/-- R56, R57: a line that assembles decodes to the command it stands for; and each pseudo-instruction assembles, when its
operands fit, to the word of the one command the table of R57 expands it to. Which values of `v` are assembly errors is the
model's reading (log entry 13); those that fit the bytes written are no matter of it. -/
def Obligations.AssembledLineDecodesToItsCommand : Prop :=
  (∀ (cfg : Config) (l : AsmLine) (w : Word64), l.assemble? cfg = some w →
    ∃ i, (l.expand cfg).toInstr? = some i ∧ decode w = some i) ∧
  (∀ (cfg : Config) (a : Byte),
    (∀ v : BitVec 8, AssemblesTo cfg (.wr8 a.toNat v.toNat) (.wrreg a 1 v 0 0)) ∧
    (∀ v : BitVec 16, AssemblesTo cfg (.wr16 a.toNat v.toNat)
      (.wrreg a 2 (v.extractLsb' 8 8) (v.extractLsb' 0 8) 0)) ∧
    (∀ v : BitVec 24, AssemblesTo cfg (.wr24 a.toNat v.toNat)
      (.wrreg a 3 (v.extractLsb' 16 8) (v.extractLsb' 8 8) (v.extractLsb' 0 8))) ∧
    AssemblesTo cfg (.rd8 a.toNat) (.rdreg a 1) ∧
    AssemblesTo cfg (.rd16 a.toNat) (.rdreg a 2) ∧
    AssemblesTo cfg (.rd24 a.toNat) (.rdreg a 3) ∧
    AssemblesTo cfg (.ench a.toNat) (.setch a 1) ∧
    AssemblesTo cfg (.disch a.toNat) (.setch a 0) ∧
    AssemblesTo cfg .rdid (.rdreg (cfg.addrId.setWidth 8) 2))

/-- R56: for every command, the line assembles exactly when each operand fits its field, and then the written operands arrive
in the fields of the word as the numbers they are, every field the command does not use being 0. CC, SC and CR are the targets
0, 1 and 2. That no byte within `len` may be omitted, and none before a written one, is the model's reading (log entry 13). -/
def Obligations.AssembledOperandsArriveUnchanged : Prop :=
  (∀ (addr len b0 : Nat) (b1 b2 : Option Nat),
    AssembledFields (.wrreg addr len b0 b1 b2)
      (addr ≤ 0xFF ∧ len ≤ 3 ∧ b0 ≤ 0xFF ∧ b1.getD 0 ≤ 0xFF ∧ b2.getD 0 ≤ 0xFF ∧
        (b1 = none → len ≤ 1 ∧ b2 = none) ∧ (b2 = none → len ≤ 2))
      0x1 addr len b0 (b1.getD 0) (b2.getD 0) 0) ∧
  (∀ addr len : Nat, AssembledFields (.rdreg addr len) (addr ≤ 0xFF ∧ len ≤ 3) 0x2 addr len 0 0 0 0) ∧
  AssembledFields .reset True 0x3 0 0 0 0 0 0 ∧
  AssembledFields .resync True 0x4 0 0 0 0 0 0 ∧
  (∀ chan en : Nat, AssembledFields (.setch chan en) (chan ≤ 0xFF ∧ en ≤ 1) 0x5 chan 0 0 0 0 en) ∧
  AssembledFields (.setmode .cc) True 0x6 0x00 0 0 0 0 0 ∧
  AssembledFields (.setmode .sc) True 0x6 0x01 0 0 0 0 0 ∧
  AssembledFields (.setmode .cr) True 0x6 0x02 0 0 0 0 0 ∧
  (∀ target : Nat, AssembledFields (.setmode (.num target)) (target ≤ 0xFF) 0x6 target 0 0 0 0 0) ∧
  AssembledFields .rdsample True 0x7 0 0 0 0 0 0 ∧
  (∀ code : Nat, AssembledFields (.setrate code) (code ≤ 0xFF) 0x8 code 0 0 0 0 0) ∧
  (∀ b0 b1 b2 : Nat,
    AssembledFields (.tosigned b0 b1 b2) (b0 ≤ 0xFF ∧ b1 ≤ 0xFF ∧ b2 ≤ 0xFF) 0x9 0 0 b0 b1 b2 0) ∧
  AssembledFields .init True 0xA 0 0 0 0 0 0 ∧
  AssembledFields .rdyq True 0xB 0 0 0 0 0 0

/-! ## Register transactions -/

/-- R58: WRREG in range emits the framing byte, the address as command byte and the first `len` bytes, and answers OK. -/
def Obligations.WrregEmitsOneWriteTransaction : Prop :=
  ∀ (a : Byte) (len : BitVec 2) (b0 b1 b2 : Byte) (s : State),
    a.toNat ≤ 0x3F → len ≠ 0#2 → Running (.wrreg a len b0 b1 b2) s →
    ∃ r : Nat → Byte, Hears s (len.toNat + 2) r ∧
      exec (.wrreg a len b0 b1 b2) s = .next (ended s
        ([.xchg s.cfg.frameByte (r 0), .xchg a (r 1), .xchg b0 (r 2), .xchg b1 (r 3), .xchg b2 (r 4)].take (len.toNat + 2))
        (len.toNat + 2) (respWord .ok 0x1#4 {}))

/-- R59: RDREG in range emits the framing byte, the address with bit 6 set and `len` fillers, and answers OK with the bytes
received on the fillers; the fields beyond `len` are 0. -/
def Obligations.RdregReturnsTheReceivedBytes : Prop :=
  ∀ (a : Byte) (len : BitVec 2) (s : State),
    a.toNat ≤ 0x3F → len ≠ 0#2 → Running (.rdreg a len) s →
    ∃ r : Nat → Byte, Hears s (len.toNat + 2) r ∧
      exec (.rdreg a len) s = .next (ended s
        ([.xchg s.cfg.frameByte (r 0), .xchg (a ||| 0x40#8) (r 1), .xchg 0x00#8 (r 2), .xchg 0x00#8 (r 3),
          .xchg 0x00#8 (r 4)].take (len.toNat + 2))
        (len.toNat + 2)
        (respWord .ok 0x2#4
          { d0 := r 2
            d1 := if len.toNat = 1 then 0#8 else r 3
            d2 := if len.toNat = 3 then r 4 else 0#8 }))

/-- R58, R59, R35: an address above 0x3F or a length of 0 is refused with OUT_OF_RANGE; no exchange, no other change. -/
def Obligations.RegisterAccessOutOfRangeIsRefused : Prop :=
  (∀ (a : Byte) (len : BitVec 2) (b0 b1 b2 : Byte) (s : State),
    (0x3F < a.toNat ∨ len = 0#2) → Running (.wrreg a len b0 b1 b2) s →
    exec (.wrreg a len b0 b1 b2) s = .next (refusedWith s (respWord .outOfRange 0x1#4 {}))) ∧
  (∀ (a : Byte) (len : BitVec 2) (s : State),
    (0x3F < a.toNat ∨ len = 0#2) → Running (.rdreg a len) s →
    exec (.rdreg a len) s = .next (refusedWith s (respWord .outOfRange 0x2#4 {})))

/-- L1.3 of 95_test_vectors.md (R30, R31): a write and then a read of the same register and length, the second run after the
host's next write, on a device that answers the read with the bytes written, returns the bytes written. -/
def Obligations.WriteThenReadRoundTrips : Prop :=
  ∀ (a : Byte) (len : BitVec 2) (b0 b1 b2 : Byte) (s t u : State) (e : List BusEvent) (w : Word64) (b : Bool)
    (ts : List HostTurn) (rs : List HostRead),
    a.toNat ≤ 0x3F → len ≠ 0#2 →
    exec (.wrreg a len b0 b1 b2) s = .next t →
    exec (.rdreg a len) (later t w b ts rs) = .next u →
    u.trace = t.trace ++ e →
    (heard e).drop 2 = (sent (t.trace.drop s.trace.length)).drop 2 →
    respD0 u.resp = b0 ∧ (2 ≤ len.toNat → respD1 u.resp = b1) ∧ (len.toNat = 3 → respD2 u.resp = b2)

/-- R60: RESET emits sixteen exchanges of 0xFF and nothing else, and leaves MODE UNKNOWN and CS_N unchanged. -/
def Obligations.ResetEmitsThePatternAndForgetsTheMode : Prop :=
  ∀ s : State, Running .reset s →
    ∃ r : Nat → Byte, Hears s 16 r ∧
      exec .reset s = .next
        { ended s ((List.range 16).map fun k => .xchg 0xFF#8 (r k)) 16 (respWord .ok 0x3#4 {}) with mode := .unknown }

/-- R61: RESYNC deasserts, waits `P_GAP`, reasserts, and leaves CS_N at 0. -/
def Obligations.ResyncTogglesTheChipSelect : Prop :=
  ∀ s : State, Running .resync s →
    exec .resync s = .next
      { ended s [.cs true, .wait s.cfg.gap, .cs false] 0 (respWord .ok 0x4#4 {}) with csN := false }

/-- R86, R97: the events RESYNC and INIT emit hold one deassert edge `CS(1)` and after it one reassert edge `CS(0)`, and the
events between them take at least `P_GAP` time units, `P_GAP` being at least 1, so at least one time unit. -/
def Obligations.ResyncGapLastsAtLeastOneTimeUnit : Prop :=
  ∀ (i : Instr) (s t : State) (evs : List BusEvent), i = .resync ∨ i = .init →
    exec i s = .next t → t.trace = s.trace ++ evs →
    ∃ pre mid post, evs = pre ++ .cs true :: mid ++ .cs false :: post ∧
      (∀ l, .cs l ∉ pre ∧ .cs l ∉ mid ∧ .cs l ∉ post) ∧
      1 ≤ s.cfg.gap ∧ s.cfg.gap * Config.timeUnit ≤ (mid.map minDuration).sum ∧
      Config.timeUnit ≤ (mid.map minDuration).sum

/-! ## Channel configurator -/

/-- R62: SETCH in range reads the channel register, then writes byte 0 with only the enable bit replaced and byte 1
regenerated from the address. -/
def Obligations.SetchRewritesTheChannelRegister : Prop :=
  ∀ (a : Byte) (en : BitVec 1) (s : State),
    0x10 ≤ a.toNat → a.toNat ≤ 0x1F → Running (.setch a en) s →
    ∃ r : Nat → Byte, Hears s 8 r ∧
      exec (.setch a en) s = .next (ended s
        (rmwEvents s.cfg.frameByte a r 0 ((r 2 &&& 0x7F#8) ||| (en.setWidth 8 <<< 7))
          (BitVec.ofNat 8 ((a.toNat % 16) * 32 + (a.toNat % 16 + 1))))
        8 (respWord .ok 0x5#4 {}))

/-- R62: a channel address outside [0x10, 0x1F] is refused with OUT_OF_RANGE and no exchange. -/
def Obligations.SetchOutOfRangeIsRefused : Prop :=
  ∀ (a : Byte) (en : BitVec 1) (s : State),
    (a.toNat < 0x10 ∨ 0x1F < a.toNat) → Running (.setch a en) s →
    exec (.setch a en) s = .next (refusedWith s (respWord .outOfRange 0x5#4 {}))

/-- R63: the byte 1 values of the table, channel 0x10 first. -/
def Obligations.ChannelByteOneTable : Prop :=
  (List.range 16).map (fun k => channelByte1 (BitVec.ofNat 8 (0x10 + k))) =
    [0x01, 0x22, 0x43, 0x64, 0x85, 0xA6, 0xC7, 0xE8, 0x09, 0x2A, 0x4B, 0x6C, 0x8D, 0xAE, 0xCF, 0xF0]

/-- R64: on a device that answers the second SETCH's read with what the first wrote, enabling and then disabling a channel
writes the same byte 1 twice, and the two byte 0 values differ only in bit 7. -/
def Obligations.EnableThenDisableDiffersInOneBit : Prop :=
  ∀ (a : Byte) (s t u : State) (e f : List BusEvent) (w : Word64) (b : Bool) (ts : List HostTurn) (rs : List HostRead),
    0x10 ≤ a.toNat → a.toNat ≤ 0x1F →
    exec (.setch a 1#1) s = .next t → exec (.setch a 0#1) (later t w b ts rs) = .next u →
    t.trace = s.trace ++ e → u.trace = t.trace ++ f →
    pairAt (heard f) 2 = pairAt (sent e) 6 →
    ∃ n0 n1 : Byte, pairAt (sent e) 6 = [n0, n1] ∧ pairAt (sent f) 6 = [n0 ^^^ 0x80#8, n1] ∧ n0.getLsbD 7 = true

/-! ## Mode controller -/

/-- R65, R66, R67: SETMODE to ContinuousConversion performs ClrCR and AdcCC and records CC, whatever MODE was. -/
def Obligations.SetmodeContinuousConversion : Prop :=
  ∀ s : State, Running (.setmode 0x00) s →
    ∃ r : Nat → Byte, Hears s 16 r ∧
      exec (.setmode 0x00) s = .next
        { ended s
            (rmwEvents s.cfg.frameByte (s.cfg.addrIfMode.setWidth 8) r 0 (r 2) (r 3 &&& 0xF7#8) ++
             rmwEvents s.cfg.frameByte (s.cfg.addrAdcMode.setWidth 8) r 8 (r 10) (r 11 &&& 0x8F#8))
            16 (respWord .ok 0x6#4 {}) with mode := .cc }

/-- R65, R66, R67: SETMODE to SingleConversion performs ClrCR and AdcSC and records SC. -/
def Obligations.SetmodeSingleConversion : Prop :=
  ∀ s : State, Running (.setmode 0x01) s →
    ∃ r : Nat → Byte, Hears s 16 r ∧
      exec (.setmode 0x01) s = .next
        { ended s
            (rmwEvents s.cfg.frameByte (s.cfg.addrIfMode.setWidth 8) r 0 (r 2) (r 3 &&& 0xF7#8) ++
             rmwEvents s.cfg.frameByte (s.cfg.addrAdcMode.setWidth 8) r 8 (r 10) ((r 11 &&& 0x8F#8) ||| 0x10#8))
            16 (respWord .ok 0x6#4 {}) with mode := .sc }

/-- R65, R66, R67: SETMODE to ContinuousRead performs ClrCR, ClrCR, AdcCC, SetCR and records CR. -/
def Obligations.SetmodeContinuousRead : Prop :=
  ∀ s : State, Running (.setmode 0x02) s →
    ∃ r : Nat → Byte, Hears s 32 r ∧
      exec (.setmode 0x02) s = .next
        { ended s
            (rmwEvents s.cfg.frameByte (s.cfg.addrIfMode.setWidth 8) r 0 (r 2) (r 3 &&& 0xF7#8) ++
             rmwEvents s.cfg.frameByte (s.cfg.addrIfMode.setWidth 8) r 8 (r 10) (r 11 &&& 0xF7#8) ++
             rmwEvents s.cfg.frameByte (s.cfg.addrAdcMode.setWidth 8) r 16 (r 18) (r 19 &&& 0x8F#8) ++
             rmwEvents s.cfg.frameByte (s.cfg.addrIfMode.setWidth 8) r 24 (r 26) (r 27 ||| 0x08#8))
            32 (respWord .ok 0x6#4 {}) with mode := .cr }

/-- R67: any other target is refused with INVALID_MODE; no bus event, MODE unchanged. -/
def Obligations.SetmodeOtherTargetIsRefused : Prop :=
  ∀ (a : Byte) (s : State), 0x02 < a.toNat → Running (.setmode a) s →
    exec (.setmode a) s = .next (refusedWith s (respWord .invalidMode 0x6#4 {}))

/-- R69: on a device with transparent mode registers, SETMODE CC or SC performed twice sends the same bytes both times, so
the register bits after the second are those after the first; after CC the continuous-read bit and the mode field are 0. -/
def Obligations.SetmodeTwiceIsSetmodeOnce : Prop :=
  ∀ (a : Byte) (s t u : State) (e f : List BusEvent) (w : Word64) (b : Bool) (ts : List HostTurn) (rs : List HostRead),
    a = 0x00#8 ∨ a = 0x01#8 →
    exec (.setmode a) s = .next t → exec (.setmode a) (later t w b ts rs) = .next u →
    t.trace = s.trace ++ e → u.trace = t.trace ++ f →
    pairAt (heard f) 2 = pairAt (sent e) 6 → pairAt (heard f) 10 = pairAt (sent e) 14 →
    sent f = sent e ∧
      (∀ x y, pairAt (sent e) 6 = [x, y] → bitClear y 3) ∧
      (a = 0x00#8 → ∀ x y, pairAt (sent e) 14 = [x, y] → bitClear y 4 ∧ bitClear y 5 ∧ bitClear y 6)

/-- R69: the same for CR, whose two runs are each made on transparent registers: what a read returns is what the last
write of that register wrote. -/
def Obligations.SetmodeContinuousReadTwiceIsOnce : Prop :=
  ∀ (s t u : State) (e f : List BusEvent) (w : Word64) (b : Bool) (ts : List HostTurn) (rs : List HostRead),
    exec (.setmode 0x02) s = .next t → exec (.setmode 0x02) (later t w b ts rs) = .next u →
    t.trace = s.trace ++ e → u.trace = t.trace ++ f →
    pairAt (heard e) 10 = pairAt (sent e) 6 → pairAt (heard e) 26 = pairAt (sent e) 14 →
    pairAt (heard f) 2 = pairAt (sent e) 30 → pairAt (heard f) 10 = pairAt (sent f) 6 →
    pairAt (heard f) 18 = pairAt (sent e) 22 → pairAt (heard f) 26 = pairAt (sent f) 14 →
    sent f = sent e

/-! ## Conversion reader -/

/-- R71, R32: in CC and in SC, RDSAMPLE addresses the data register and reads three bytes; VALUE is
`((raw[0] * 4 + raw[1] mod 4) - 512) * 2` (R70). -/
def Obligations.RdsampleAddressesTheDataRegister : Prop :=
  ∀ s : State, (s.mode = .cc ∨ s.mode = .sc) → Running .rdsample s →
    ∃ r : Nat → Byte, Hears s 5 r ∧
      exec .rdsample s = .next (ended s
        [.xchg s.cfg.frameByte (r 0), .xchg (0x40#8 ||| s.cfg.addrData.setWidth 8) (r 1),
         .xchg 0x00#8 (r 2), .xchg 0x00#8 (r 3), .xchg 0x00#8 (r 4)] 5
        (respWord .ok 0x7#4
          { d0 := r 2, d1 := r 3, d2 := r 4
            value := BitVec.ofInt 16 ((((r 2).toNat * 4 + (r 3).toNat % 4 : Nat) - 512) * 2) }))

/-- R71, R68: in CR, RDSAMPLE sends three fillers and no addressing, on every read. -/
def Obligations.RdsampleInContinuousReadSendsNoAddress : Prop :=
  ∀ s : State, s.mode = .cr → Running .rdsample s →
    ∃ r : Nat → Byte, Hears s 3 r ∧
      exec .rdsample s = .next (ended s
        [.xchg 0x00#8 (r 0), .xchg 0x00#8 (r 1), .xchg 0x00#8 (r 2)] 3
        (respWord .ok 0x7#4
          { d0 := r 0, d1 := r 1, d2 := r 2
            value := BitVec.ofInt 16 ((((r 0).toNat * 4 + (r 1).toNat % 4 : Nat) - 512) * 2) }))

/-- R71: with no mode set, RDSAMPLE is refused with MODE_UNSET and no bus event. -/
def Obligations.RdsampleWithoutModeIsRefused : Prop :=
  ∀ s : State, s.mode = .unknown → Running .rdsample s →
    exec .rdsample s = .next (refusedWith s (respWord .modeUnset 0x7#4 {}))

/-- R72, R53: under WORD13 SETRATE keeps the top 3 bits of the 16-bit value and writes the code into the rest, for every
code. -/
def Obligations.SetrateWord13KeepsTheTopThreeBits : Prop :=
  ∀ (code : Byte) (s : State), s.cfg.ratePacking = .word13 → Running (.setrate code) s →
    ∃ r : Nat → Byte, Hears s 8 r ∧
      ∃ n0 n1 : Byte, n0 ++ n1 = (((r 2 ++ r 3) &&& 0xE000#16) ||| code.setWidth 16) ∧
      exec (.setrate code) s = .next (ended s
        (rmwEvents s.cfg.frameByte (s.cfg.addrFilt0.setWidth 8) r 0 n0 n1) 8 (respWord .ok 0x8#4 {}))

/-- R72, R53: under BYTE5 a code of at most 0x1F goes into byte 1 bits [4:0]; byte 0 and the top 3 bits of byte 1 stay. -/
def Obligations.SetrateByte5ReplacesFiveBits : Prop :=
  ∀ (code : Byte) (s : State), s.cfg.ratePacking = .byte5 → code.toNat ≤ 0x1F → Running (.setrate code) s →
    ∃ r : Nat → Byte, Hears s 8 r ∧
      exec (.setrate code) s = .next (ended s
        (rmwEvents s.cfg.frameByte (s.cfg.addrFilt0.setWidth 8) r 0 (r 2) ((r 3 &&& 0xE0#8) ||| code))
        8 (respWord .ok 0x8#4 {}))

/-- R72: under BYTE5 a code above 0x1F is refused with OUT_OF_RANGE and no bus event. -/
def Obligations.SetrateByte5LargeCodeIsRefused : Prop :=
  ∀ (code : Byte) (s : State), s.cfg.ratePacking = .byte5 → 0x1F < code.toNat → Running (.setrate code) s →
    exec (.setrate code) s = .next (refusedWith s (respWord .outOfRange 0x8#4 {}))

/-- R70: the interpreter's result is `(raw10 - 512) * 2` with `raw10 = raw[0] * 4 + raw[1] mod 4`; it is even, lies in
[-1024, 1022], and the 16-bit pattern presents it exactly. -/
def Obligations.ToSignedIsExactEvenAndBounded : Prop :=
  ∀ r0 r1 r2 : Byte,
    toSigned r0 r1 r2 = (((r0.toNat * 4 + r1.toNat % 4 : Nat) : Int) - 512) * 2 ∧
    toSigned r0 r1 r2 % 2 = 0 ∧ -1024 ≤ toSigned r0 r1 r2 ∧ toSigned r0 r1 r2 ≤ 1022 ∧
    (signedValue r0 r1 r2).toInt = toSigned r0 r1 r2

/-- R73, R70: TOSIGNED answers OK with VALUE alone; no bus event, no other change; `B2` and the high bits of `B1` do not
matter. -/
def Obligations.TosignedAnswersTheSignedValue : Prop :=
  ∀ (b0 b1 b2 : Byte) (s : State), Running (.tosigned b0 b1 b2) s →
    exec (.tosigned b0 b1 b2) s = .next (ended s [] 0
      (respWord .ok 0x9#4
        { value := BitVec.ofInt 16 ((((b0.toNat * 4 + b1.toNat % 4 : Nat) : Int) - 512) * 2) }))

/-- R74: RDYQ samples the data-ready line once and answers FLAG = 1 exactly when the level is 0. -/
def Obligations.RdyqSamplesTheLineOnce : Prop :=
  ∀ s : State, Running .rdyq s →
    ∃ l : Bool, (∀ b, s.rdyIn[0]? = some b → l = b) ∧
      exec .rdyq s = .next
        { ended s [.rdy l] 0 (respWord .ok 0xB#4 { flag := if l = false then true else false }) with
          rdyIn := s.rdyIn.drop 1 }

/-! ## Initialisation -/

/-- R75, R76: INIT starts the transport, toggles the chip-select, reads the identity and answers OK; FLAG is 1 exactly when
byte 0 is 0x30 and the high nibble of byte 1 is 0xD; VIOL is unchanged. -/
def Obligations.InitReadsAndJudgesTheIdentity : Prop :=
  ∀ s : State, Running .init s →
    ∃ r : Nat → Byte, Hears s 4 r ∧
      exec .init s = .next
        { ended s
            [.cfg, .cs true, .wait s.cfg.gap, .cs false,
             .xchg s.cfg.frameByte (r 0), .xchg (0x40#8 ||| s.cfg.addrId.setWidth 8) (r 1),
             .xchg 0x00#8 (r 2), .xchg 0x00#8 (r 3)] 4
            (respWord .ok 0xA#4
              { flag := decide ((r 2).toNat = 0x30 ∧ (r 3).toNat / 16 = 0xD), d0 := r 2, d1 := r 3 }) with
          xcfg := true, csN := false, viol := s.viol }

/-! ## Statuses and responses -/

/-- R21: the fields of a response word lie where the table says, and the reserved bits are 0. -/
def Obligations.ResponseWordLayout : Prop :=
  ∀ (st : Status) (opc : BitVec 4) (f : RespFields),
    (respWord st opc f).extractLsb' 0 8 = statusCode st ∧
    (respWord st opc f).extractLsb' 8 1 = BitVec.ofBool f.flag ∧
    (respWord st opc f).extractLsb' 9 7 = 0#7 ∧
    (respWord st opc f).extractLsb' 16 8 = f.d0 ∧
    (respWord st opc f).extractLsb' 24 8 = f.d1 ∧
    (respWord st opc f).extractLsb' 32 8 = f.d2 ∧
    (respWord st opc f).extractLsb' 40 16 = f.value ∧
    (respWord st opc f).extractLsb' 56 4 = opc ∧
    (respWord st opc f).extractLsb' 60 4 = 0#4

/-- R22: the bits of `STAT` and its value at reset. The third clause, that a read of it, running command or not, changes
nothing else, is made with the model's turn for the read and its record of what was read (log entries 3 and 11; inside a
command entry 4). -/
def Obligations.StatusViewLayout : Prop :=
  (∀ s : State,
    (statWord s).getLsbD 0 = s.busy ∧
    ((statWord s).extractLsb' 1 2 =
      match s.mode with | .cc => 0b00#2 | .sc => 0b01#2 | .cr => 0b10#2 | .unknown => 0b11#2) ∧
    (statWord s).getLsbD 3 = s.csN ∧ (statWord s).getLsbD 4 = s.xcfg ∧
    (statWord s).getLsbD 5 = s.viol.unsync ∧ (statWord s).getLsbD 6 = s.viol.nocfg ∧
    (statWord s).getLsbD 7 = s.viol.overrun ∧ (statWord s).extractLsb' 8 24 = 0#24) ∧
  statWord State.reset = 0x0000000E#32 ∧
  (∀ (s : State) (ts : List HostTurn), s.hostIn = .readStat :: ts →
    step s = .next { s with hostIn := ts, reads := s.reads ++ [.stat (statWord s)] })

/-- R77, R80: the status a running word answers is the one the table gives, ILLEGAL_CMD first, then the operand checks,
then MODE_UNSET. -/
def Obligations.EveryWordAnswersTheTableStatus : Prop :=
  ∀ (s t : State) (rest : List HostTurn), s.busy = true → EngineMoves s rest → step s = .next t →
    respStatus t.resp = expectedCode s

/-- R78: a running word that answers a status other than OK changes nothing but RESP and BUSY (and the record of responses,
and the idle turn used up), and RESP holds only the code and the word's OP. -/
def Obligations.RefusedWordChangesOnlyTheResponse : Prop :=
  ∀ (s t : State) (rest : List HostTurn), s.busy = true → EngineMoves s rest → step s = .next t →
    respStatus t.resp ≠ 0#8 →
    ∃ st : Status, st ≠ .ok ∧ t = refusedWith { s with hostIn := rest } (respWord st (opField s.cmd) {})

/-- R43, R55: a word that decodes as nothing answers ILLEGAL_CMD with no bus event. -/
def Obligations.IllegalWordAnswersIllegalCmd : Prop :=
  ∀ (s : State) (rest : List HostTurn), s.busy = true → EngineMoves s rest → decode s.cmd = none →
    step s = .next (refusedWith { s with hostIn := rest } (respWord .illegalCmd (opField s.cmd) {}))

/-- R20, R21: every command ends with BUSY = 0 and exactly one response, which names its operation. -/
def Obligations.EveryCommandEndsWithOneResponse : Prop :=
  ∀ (i : Instr) (s : State), Running i s →
    ∃ t, exec i s = .next t ∧ t.busy = false ∧ t.responses = s.responses ++ [t.resp] ∧ respOpc t.resp = opcode i ∧
      t.cmd = s.cmd ∧ t.reads = s.reads ∧ t.hostIn = s.hostIn ∧ t.cfg = s.cfg

/-- R49: the exchanges and the other events of a command that completes are those of the table; a refused command, an
illegal word among them, has none. -/
def Obligations.BusFramesHaveTheTableLengths : Prop :=
  (∀ (i : Instr) (s t : State), exec i s = .next t →
    ∃ evs, t.trace = s.trace ++ evs ∧
      (respStatus t.resp = 0#8 → countXchg evs = frameExchanges i s ∧ FrameOthers i s (others evs)) ∧
      (respStatus t.resp ≠ 0#8 → evs = [])) ∧
  (∀ (s t : State) (rest : List HostTurn), s.busy = true → EngineMoves s rest → step s = .next t →
    respStatus t.resp ≠ 0#8 → t.trace = s.trace)

/-! ## The machine -/

/-- R20, R43: when the word in CMD decodes to a command and it is the engine's turn, the step is that command's meaning at
that state, less the outside turn that was used up. That turns are a list in State is the model's choice (log entry 3). -/
def Obligations.StepRunsTheDecodedCommand : Prop :=
  ∀ (i : Instr) (s : State), Running i s →
    (s.hostIn = [] → step s = exec i s) ∧
    (∀ ts, s.hostIn = .idle :: ts → step s = exec i { s with hostIn := ts })

/-- R19, R20 (the model's way to place a command, log entry 10): after `withFetchWord` the very next step runs the command
the word decodes to, as a command accepted in CMD. -/
def Obligations.PlacedWordRunsOnTheNextStep : Prop :=
  ∀ (s : State) (w : Word64) (i : Instr), decode w = some i →
    ∃ ts, step (s.withFetchWord 64 w.toNat) = exec i { s with cmd := w, busy := true, hostIn := ts }

/-- R20: the host's write of CMD is accepted when BUSY = 0; when BUSY = 1 it is discarded and only VIOL.OVERRUN is set.
The turn that stands for the write is the model's choice (log entry 3); that one taken with BUSY = 1 stands for a write inside
the command is the model's reading (log entry 4). -/
def Obligations.HostWriteIsAcceptedOrOverruns : Prop :=
  ∀ (s : State) (w : Word64) (ts : List HostTurn), s.hostIn = .write w :: ts →
    (s.busy = false → step s = .next { s with hostIn := ts, cmd := w, busy := true }) ∧
    (s.busy = true → step s = .next { s with hostIn := ts, viol := { s.viol with overrun := true } })

/-- R21, R22, R24: host reads return STAT or RESP and change nothing else; an idle engine whose turn it is, with no outside
turn left or on an idle one, holds its state. The turns that stand for the reads and the record of what was read are the
model's choice (log entries 3 and 11). That a read of STAT with BUSY = 1, inside a command, returns the other bits as they were
before the command is the model's reading, DEDUCED and unsafe (log entry 4). -/
def Obligations.HostReadsAndIdlingChangeNothing : Prop :=
  (∀ (s : State) (ts : List HostTurn), s.hostIn = .readStat :: ts →
    step s = .next { s with hostIn := ts, reads := s.reads ++ [.stat (statWord s)] }) ∧
  (∀ (s : State) (ts : List HostTurn), s.hostIn = .readResp :: ts →
    step s = .next { s with hostIn := ts, reads := s.reads ++ [.resp s.resp] }) ∧
  (∀ s : State, s.hostIn = [] → s.busy = false → step s = .next s) ∧
  (∀ (s : State) (ts : List HostTurn), s.hostIn = .idle :: ts → s.busy = false → step s = .next { s with hostIn := ts })

/-- R90, R92: what the engine reset leaves, by the values the spec gives (CMD's value is the model's choice, log entry 6,
and is not stated). -/
def Obligations.ResetStateHoldsTheSpecValues : Prop :=
  State.reset.mode = .unknown ∧ State.reset.csN = true ∧ State.reset.xcfg = false ∧
  State.reset.viol = ⟨false, false, false⟩ ∧ State.reset.busy = false ∧ State.reset.resp = 0#64 ∧
  statWord State.reset = 0x0000000E#32 ∧ State.reset.trace = []

/-- R90: the engine reset, arriving while idle, gives every register its reset value and emits no bus event. The
turn that stands for the reset input, and what its `k` means, are the model's choice (log entries 3 and 5). -/
def Obligations.EngineResetWhileIdle : Prop :=
  ∀ (s : State) (k : Nat) (ts : List HostTurn), s.hostIn = .reset k :: ts → s.busy = false →
    ∃ t, step s = .next t ∧ t.mode = .unknown ∧ t.csN = true ∧ t.xcfg = false ∧ t.viol = Viol.none ∧ t.busy = false ∧
      t.resp = 0#64 ∧ statWord t = 0x0000000E#32 ∧ t.trace = s.trace ∧ t.responses = s.responses ∧ t.cfg = s.cfg ∧
      t.reads = s.reads ∧ t.rxIn = s.rxIn ∧ t.rdyIn = s.rdyIn ∧ t.hostIn = ts

/-- R90, U21: the engine reset, arriving in a running command, leaves on the bus the first `k` of the events the command
would have emitted, no response, and every register at its reset value. That the cut can lie after any event, and that `k`
names it, is the model's reading (log entry 5). -/
def Obligations.EngineResetAbandonsTheCommand : Prop :=
  ∀ (i : Instr) (s : State) (k : Nat) (ts : List HostTurn), Running i s → s.hostIn = .reset k :: ts →
    ∃ full evs t, exec i s = .next full ∧ full.trace = s.trace ++ evs ∧
      step s = .next t ∧ t.trace = s.trace ++ evs.take k ∧ t.responses = s.responses ∧
      t.mode = .unknown ∧ t.csN = true ∧ t.xcfg = false ∧ t.viol = Viol.none ∧ t.busy = false ∧ t.resp = 0#64 ∧
      t.cfg = s.cfg ∧ t.reads = s.reads ∧ t.hostIn = ts ∧
      t.rxIn = s.rxIn.drop (countXchg (evs.take k)) ∧ t.rdyIn = s.rdyIn.drop (countRdy (evs.take k))

/-- Part U of 93_implementation_defined.md: every command completes or is refused with a status, and no input stops the
engine: every step of every state has a next state. So every run comes to its end, the host's last command word written and
`BUSY = 0` (R104). -/
def Obligations.NoInputStopsTheEngine : Prop :=
  (∀ s : State, ∃ t, step s = .next t) ∧
  (∀ s : State, ∃ t, endOfRun s = some t ∧ t.busy = false ∧ ∀ w, HostTurn.write w ∉ t.hostIn)

/-- R9, R10, R38: a step only appends to the bus trace; every received byte and sampled level is the outside's answer at
that point; each is used once; and the parameters stay. The form of the outside's answers is the model's choice (log entries 1, 2). -/
def Obligations.StepAppendsAnsweredEvents : Prop :=
  ∀ s t : State, step s = .next t →
    ∃ evs, t.trace = s.trace ++ evs ∧ EnvAnswers s.rxIn s.rdyIn s.trace evs ∧
      t.rxIn = s.rxIn.drop (countXchg evs) ∧ t.rdyIn = s.rdyIn.drop (countRdy evs) ∧ t.cfg = s.cfg

/-- R13: MODE is written only by SETMODE, by RESET and by the engine reset. -/
def Obligations.ModeChangesOnlyBySetmodeAndResets : Prop :=
  ∀ s t : State, step s = .next t → t.mode ≠ s.mode →
    (∃ k ts, s.hostIn = .reset k :: ts) ∨ Running .reset s ∨ ∃ a, Running (.setmode a) s

/-- R15, R16: outside the engine reset CS_N is written only by RESYNC and INIT, which leave it 0, and XCFG is set only by
INIT. -/
def Obligations.ChipSelectAndStartChangeOnlyByTheirCommands : Prop :=
  ∀ s t : State, step s = .next t → (∀ k ts, s.hostIn ≠ .reset k :: ts) →
    (t.csN ≠ s.csN → t.csN = false ∧ (Running .resync s ∨ Running .init s)) ∧
    (t.xcfg ≠ s.xcfg → t.xcfg = true ∧ Running .init s)

/-- R13, R66: no command but RDSAMPLE reads MODE: from a state with another MODE it answers and emits the same. The two runs
get the same answers from outside: those placed in State, and past them what the model's oracle gives for equal traces (log
entries 1 and 2, unsafe for such a comparison; it does not come in where the placed answers cover the command). -/
def Obligations.OnlyRdsampleReadsTheMode : Prop :=
  ∀ (i : Instr) (s t : State) (m : ConvMode), i ≠ .rdsample → exec i s = .next t →
    ∃ m', exec i { s with mode := m } = .next { t with mode := m' }

/-- R17, R81: a protocol violation refuses and alters nothing: with other levels of `CS_N`, `XCFG` and other `VIOL` bits a
command emits the same events, uses the same answers and gives the same response. The two runs get the same answers from
outside: those placed in State, and past them what the model's oracle gives for equal traces (log entries 1 and 2, unsafe for
such a comparison, and U2 leaves those bytes any value; it does not come in where the placed answers cover the command). -/
def Obligations.ViolationsNeverAlterACommand : Prop :=
  ∀ (i : Instr) (s t : State) (c x : Bool) (v : Viol), exec i s = .next t →
    ∃ c' x' v', exec i { s with csN := c, xcfg := x, viol := v } = .next { t with csN := c', xcfg := x', viol := v' }

/-- R17: no step clears a VIOL bit, except the engine reset. -/
def Obligations.ViolationsAreSticky : Prop :=
  ∀ s t : State, step s = .next t → (∀ k ts, s.hostIn ≠ .reset k :: ts) →
    (s.viol.unsync = true → t.viol.unsync = true) ∧ (s.viol.nocfg = true → t.viol.nocfg = true) ∧
    (s.viol.overrun = true → t.viol.overrun = true)

/-- R17, R81, R93: once INIT has started the transport and asserted the chip-select, a step records no violation, unless the
host writes CMD while BUSY = 1, and the bus stays ready. -/
def Obligations.ReadyBusStaysInContract : Prop :=
  ∀ s t : State, step s = .next t → busReady s = true → inContract s = true →
    (∀ k ts, s.hostIn ≠ .reset k :: ts) → (∀ w ts, s.hostIn = .write w :: ts → s.busy = false) →
    busReady t = true ∧ inContract t = true

/-- The invariant of the engine's registers holds right after reset. -/
def Obligations.InvariantHoldsAtReset : Prop :=
  EngineInv State.reset

/-- R15, R16, R21, R61, R77: every step keeps the invariant: responses stay legal, a started transport has its chip-select
asserted, and every wait on the bus lasts `P_GAP`. The second part is an inference from INIT's order of events (R76). -/
def Obligations.EveryStepKeepsTheInvariant : Prop :=
  ∀ s t : State, EngineInv s → step s = .next t → EngineInv t

/-- R4, D37 (how a model refuses a configuration is the model's choice, log entry 7): one is refused exactly when the framing
byte is no byte, an address parameter is above 0x3F, or `P_GAP` is 0; and an accepted one has the values it was given. -/
def Obligations.ConfigurationOutOfRangeIsRefused : Prop :=
  ∀ (frame adc ifm data ident filt gap : Nat) (p : RatePacking) (o : BitOrder),
    (Config.build? frame adc ifm data ident filt p gap o = none ↔
      0xFF < frame ∨ 0x3F < adc ∨ 0x3F < ifm ∨ 0x3F < data ∨ 0x3F < ident ∨ 0x3F < filt ∨ gap = 0) ∧
    (∀ c, Config.build? frame adc ifm data ident filt p gap o = some c →
      c.frameByte.toNat = frame ∧ c.addrAdcMode.toNat = adc ∧ c.addrIfMode.toNat = ifm ∧ c.addrData.toNat = data ∧
      c.addrId.toNat = ident ∧ c.addrFilt0.toNat = filt ∧ c.gap = gap ∧ c.ratePacking = p ∧ c.bitOrder = o)
end

