-- ==== Sys2Proof/Laws/Decode.lean ====
section
/-! SUPPORT. The fields of a packed word are the operands it was packed from (R41, R56), and the bits outside an
operation's fields are its OP alone (R43). -/

namespace Sys2Proof

section Fields

variable (op : BitVec 4) (a : Byte) (len : BitVec 2) (b0 b1 b2 : Byte) (en : BitVec 1)

@[simp] theorem opField_packWord : opField (packWord op a len b0 b1 b2 en) = op := by
  unfold opField packWord
  ext i hi
  simp only [BitVec.getElem_extractLsb', BitVec.getLsbD_or, BitVec.getLsbD_shiftLeft, BitVec.getLsbD_setWidth]
  interval_cases i <;> simp [BitVec.getLsbD_eq_getElem]

@[simp] theorem aField_packWord : aField (packWord op a len b0 b1 b2 en) = a := by
  unfold aField packWord
  ext i hi
  simp only [BitVec.getElem_extractLsb', BitVec.getLsbD_or, BitVec.getLsbD_shiftLeft, BitVec.getLsbD_setWidth]
  interval_cases i <;> simp [BitVec.getLsbD_eq_getElem]

@[simp] theorem lenField_packWord : lenField (packWord op a len b0 b1 b2 en) = len := by
  unfold lenField packWord
  ext i hi
  simp only [BitVec.getElem_extractLsb', BitVec.getLsbD_or, BitVec.getLsbD_shiftLeft, BitVec.getLsbD_setWidth]
  interval_cases i <;> simp [BitVec.getLsbD_eq_getElem]

@[simp] theorem b0Field_packWord : b0Field (packWord op a len b0 b1 b2 en) = b0 := by
  unfold b0Field packWord
  ext i hi
  simp only [BitVec.getElem_extractLsb', BitVec.getLsbD_or, BitVec.getLsbD_shiftLeft, BitVec.getLsbD_setWidth]
  interval_cases i <;> simp [BitVec.getLsbD_eq_getElem]

@[simp] theorem b1Field_packWord : b1Field (packWord op a len b0 b1 b2 en) = b1 := by
  unfold b1Field packWord
  ext i hi
  simp only [BitVec.getElem_extractLsb', BitVec.getLsbD_or, BitVec.getLsbD_shiftLeft, BitVec.getLsbD_setWidth]
  interval_cases i <;> simp [BitVec.getLsbD_eq_getElem]

@[simp] theorem b2Field_packWord : b2Field (packWord op a len b0 b1 b2 en) = b2 := by
  unfold b2Field packWord
  ext i hi
  simp only [BitVec.getElem_extractLsb', BitVec.getLsbD_or, BitVec.getLsbD_shiftLeft, BitVec.getLsbD_setWidth]
  interval_cases i <;> simp [BitVec.getLsbD_eq_getElem]

@[simp] theorem enField_packWord : enField (packWord op a len b0 b1 b2 en) = en := by
  unfold enField packWord
  ext i hi
  simp only [BitVec.getElem_extractLsb', BitVec.getLsbD_or, BitVec.getLsbD_shiftLeft, BitVec.getLsbD_setWidth]
  interval_cases i
  simp [BitVec.getLsbD_eq_getElem]

/-- Bit `i` of a packed word, field by field (R41, R56). -/
theorem getLsbD_packWord (i : Nat) (hi : i < 64) :
    (packWord op a len b0 b1 b2 en).getLsbD i =
      (op.getLsbD i || (!decide (i < 8) && a.getLsbD (i - 8)) || (!decide (i < 16) && len.getLsbD (i - 16)) ||
        (!decide (i < 24) && b0.getLsbD (i - 24)) || (!decide (i < 32) && b1.getLsbD (i - 32)) ||
        (!decide (i < 40) && b2.getLsbD (i - 40)) || (!decide (i < 48) && en.getLsbD (i - 48))) := by
  simp only [packWord, BitVec.getLsbD_or, BitVec.getLsbD_shiftLeft, BitVec.getLsbD_setWidth]
  have h (k : Nat) : decide (i - k < 64) = true := by simp; omega
  simp [hi, h]

end Fields

/-- A word is put together again from its fields when its reserved bits are 0 (R41). -/
theorem packWord_fields (w : Word64) (h : w &&& 0xFFFE000000FC00F0#64 = 0#64) :
    packWord (opField w) (aField w) (lenField w) (b0Field w) (b1Field w) (b2Field w) (enField w) = w := by
  ext i hi
  have hb := congrArg (fun v => BitVec.getLsbD v i) h
  simp only [BitVec.getLsbD_and] at hb
  rw [← BitVec.getLsbD_eq_getElem, ← BitVec.getLsbD_eq_getElem, getLsbD_packWord _ _ _ _ _ _ _ i hi]
  simp only [opField, aField, lenField, b0Field, b1Field, b2Field, enField, BitVec.getLsbD_extractLsb']
  interval_cases i <;> simp_all

/-- The OP field of a word that decodes names the command it decodes to (R42, R43). -/
theorem opField_of_decode {w : Word64} {i : Instr} (h : decode w = some i) : opField w = opcode i := by
  have hop : opField w = BitVec.ofNat 4 (opField w).toNat := by simp
  unfold decode at h
  split at h
  · unfold operation? at h
    split at h <;> rename_i heq <;> first
      | (cases h; rw [hop, heq]; rfl)
      | cases h
  · cases h

/-- A mask that covers a field leaves the field as it was (R43). -/
theorem extractLsb'_of_masked {w m v : Word64} (h : w &&& m = v) (start len : Nat)
    (hm : m.extractLsb' start len = BitVec.allOnes len) : w.extractLsb' start len = v.extractLsb' start len := by
  rw [← h, BitVec.extractLsb'_and, hm, BitVec.and_allOnes]

/-- No operation uses a reserved bit: a word with a 1 in one does not decode (R41, R43). -/
theorem reserved_of_masked {w : Word64} (h : w &&& ~~~ fieldMask (opField w) = (opField w).setWidth 64) :
    w &&& 0xFFFE000000FC00F0#64 = 0#64 := by
  have hm : ∀ op : BitVec 4,
      0xFFFE000000FC00F0#64 = ~~~ fieldMask op &&& 0xFFFE000000FC00F0#64 ∧
        op.setWidth 64 &&& 0xFFFE000000FC00F0#64 = 0#64 := by decide
  rw [(hm (opField w)).1, ← BitVec.and_assoc, h, (hm _).2]

end Sys2Proof
end

