-- ==== Sys2Proof/Laws/State.lean ====
section
/-! SUPPORT. One lemma per field per update of the state, each true by rfl, so that no proof unfolds an update. -/

namespace Sys2Proof.Machine

/-! ### emit e s -/

@[simp] theorem emit_cfg (e : BusEvent) (s : State) : (emit e s).cfg = s.cfg := rfl
@[simp] theorem emit_mode (e : BusEvent) (s : State) : (emit e s).mode = s.mode := rfl
@[simp] theorem emit_csN (e : BusEvent) (s : State) : (emit e s).csN = s.csN := rfl
@[simp] theorem emit_xcfg (e : BusEvent) (s : State) : (emit e s).xcfg = s.xcfg := rfl
@[simp] theorem emit_viol (e : BusEvent) (s : State) : (emit e s).viol = s.viol := rfl
@[simp] theorem emit_busy (e : BusEvent) (s : State) : (emit e s).busy = s.busy := rfl
@[simp] theorem emit_cmd (e : BusEvent) (s : State) : (emit e s).cmd = s.cmd := rfl
@[simp] theorem emit_resp (e : BusEvent) (s : State) : (emit e s).resp = s.resp := rfl
@[simp] theorem emit_trace (e : BusEvent) (s : State) : (emit e s).trace = s.trace ++ [e] := rfl
@[simp] theorem emit_responses (e : BusEvent) (s : State) : (emit e s).responses = s.responses := rfl
@[simp] theorem emit_reads (e : BusEvent) (s : State) : (emit e s).reads = s.reads := rfl
@[simp] theorem emit_rxIn (e : BusEvent) (s : State) : (emit e s).rxIn = s.rxIn := rfl
@[simp] theorem emit_rdyIn (e : BusEvent) (s : State) : (emit e s).rdyIn = s.rdyIn := rfl
@[simp] theorem emit_hostIn (e : BusEvent) (s : State) : (emit e s).hostIn = s.hostIn := rfl

/-! ### (xchg out s).2 -/

@[simp] theorem xchg_snd_cfg (out : Byte) (s : State) : ((xchg out s).2).cfg = s.cfg := rfl
@[simp] theorem xchg_snd_mode (out : Byte) (s : State) : ((xchg out s).2).mode = s.mode := rfl
@[simp] theorem xchg_snd_csN (out : Byte) (s : State) : ((xchg out s).2).csN = s.csN := rfl
@[simp] theorem xchg_snd_xcfg (out : Byte) (s : State) : ((xchg out s).2).xcfg = s.xcfg := rfl
@[simp] theorem xchg_snd_viol (out : Byte) (s : State) : ((xchg out s).2).viol = violOnExchange s.csN s.xcfg s.viol := rfl
@[simp] theorem xchg_snd_busy (out : Byte) (s : State) : ((xchg out s).2).busy = s.busy := rfl
@[simp] theorem xchg_snd_cmd (out : Byte) (s : State) : ((xchg out s).2).cmd = s.cmd := rfl
@[simp] theorem xchg_snd_resp (out : Byte) (s : State) : ((xchg out s).2).resp = s.resp := rfl
@[simp] theorem xchg_snd_trace (out : Byte) (s : State) : ((xchg out s).2).trace = s.trace ++ [.xchg out (nextByte s out)] := rfl
@[simp] theorem xchg_snd_responses (out : Byte) (s : State) : ((xchg out s).2).responses = s.responses := rfl
@[simp] theorem xchg_snd_reads (out : Byte) (s : State) : ((xchg out s).2).reads = s.reads := rfl
@[simp] theorem xchg_snd_rxIn (out : Byte) (s : State) : ((xchg out s).2).rxIn = s.rxIn.tail := rfl
@[simp] theorem xchg_snd_rdyIn (out : Byte) (s : State) : ((xchg out s).2).rdyIn = s.rdyIn := rfl
@[simp] theorem xchg_snd_hostIn (out : Byte) (s : State) : ((xchg out s).2).hostIn = s.hostIn := rfl

/-! ### csDrive l s -/

@[simp] theorem csDrive_cfg (l : Bool) (s : State) : (csDrive l s).cfg = s.cfg := rfl
@[simp] theorem csDrive_mode (l : Bool) (s : State) : (csDrive l s).mode = s.mode := rfl
@[simp] theorem csDrive_csN (l : Bool) (s : State) : (csDrive l s).csN = l := rfl
@[simp] theorem csDrive_xcfg (l : Bool) (s : State) : (csDrive l s).xcfg = s.xcfg := rfl
@[simp] theorem csDrive_viol (l : Bool) (s : State) : (csDrive l s).viol = s.viol := rfl
@[simp] theorem csDrive_busy (l : Bool) (s : State) : (csDrive l s).busy = s.busy := rfl
@[simp] theorem csDrive_cmd (l : Bool) (s : State) : (csDrive l s).cmd = s.cmd := rfl
@[simp] theorem csDrive_resp (l : Bool) (s : State) : (csDrive l s).resp = s.resp := rfl
@[simp] theorem csDrive_trace (l : Bool) (s : State) : (csDrive l s).trace = s.trace ++ [.cs l] := rfl
@[simp] theorem csDrive_responses (l : Bool) (s : State) : (csDrive l s).responses = s.responses := rfl
@[simp] theorem csDrive_reads (l : Bool) (s : State) : (csDrive l s).reads = s.reads := rfl
@[simp] theorem csDrive_rxIn (l : Bool) (s : State) : (csDrive l s).rxIn = s.rxIn := rfl
@[simp] theorem csDrive_rdyIn (l : Bool) (s : State) : (csDrive l s).rdyIn = s.rdyIn := rfl
@[simp] theorem csDrive_hostIn (l : Bool) (s : State) : (csDrive l s).hostIn = s.hostIn := rfl

/-! ### waitGap s -/

@[simp] theorem waitGap_cfg (s : State) : (waitGap s).cfg = s.cfg := rfl
@[simp] theorem waitGap_mode (s : State) : (waitGap s).mode = s.mode := rfl
@[simp] theorem waitGap_csN (s : State) : (waitGap s).csN = s.csN := rfl
@[simp] theorem waitGap_xcfg (s : State) : (waitGap s).xcfg = s.xcfg := rfl
@[simp] theorem waitGap_viol (s : State) : (waitGap s).viol = s.viol := rfl
@[simp] theorem waitGap_busy (s : State) : (waitGap s).busy = s.busy := rfl
@[simp] theorem waitGap_cmd (s : State) : (waitGap s).cmd = s.cmd := rfl
@[simp] theorem waitGap_resp (s : State) : (waitGap s).resp = s.resp := rfl
@[simp] theorem waitGap_trace (s : State) : (waitGap s).trace = s.trace ++ [.wait s.cfg.gap] := rfl
@[simp] theorem waitGap_responses (s : State) : (waitGap s).responses = s.responses := rfl
@[simp] theorem waitGap_reads (s : State) : (waitGap s).reads = s.reads := rfl
@[simp] theorem waitGap_rxIn (s : State) : (waitGap s).rxIn = s.rxIn := rfl
@[simp] theorem waitGap_rdyIn (s : State) : (waitGap s).rdyIn = s.rdyIn := rfl
@[simp] theorem waitGap_hostIn (s : State) : (waitGap s).hostIn = s.hostIn := rfl

/-! ### xportBegin s -/

@[simp] theorem xportBegin_cfg (s : State) : (xportBegin s).cfg = s.cfg := rfl
@[simp] theorem xportBegin_mode (s : State) : (xportBegin s).mode = s.mode := rfl
@[simp] theorem xportBegin_csN (s : State) : (xportBegin s).csN = s.csN := rfl
@[simp] theorem xportBegin_xcfg (s : State) : (xportBegin s).xcfg = true := rfl
@[simp] theorem xportBegin_viol (s : State) : (xportBegin s).viol = s.viol := rfl
@[simp] theorem xportBegin_busy (s : State) : (xportBegin s).busy = s.busy := rfl
@[simp] theorem xportBegin_cmd (s : State) : (xportBegin s).cmd = s.cmd := rfl
@[simp] theorem xportBegin_resp (s : State) : (xportBegin s).resp = s.resp := rfl
@[simp] theorem xportBegin_trace (s : State) : (xportBegin s).trace = s.trace ++ [.cfg] := rfl
@[simp] theorem xportBegin_responses (s : State) : (xportBegin s).responses = s.responses := rfl
@[simp] theorem xportBegin_reads (s : State) : (xportBegin s).reads = s.reads := rfl
@[simp] theorem xportBegin_rxIn (s : State) : (xportBegin s).rxIn = s.rxIn := rfl
@[simp] theorem xportBegin_rdyIn (s : State) : (xportBegin s).rdyIn = s.rdyIn := rfl
@[simp] theorem xportBegin_hostIn (s : State) : (xportBegin s).hostIn = s.hostIn := rfl

/-! ### (readRdy s).2 -/

@[simp] theorem readRdy_snd_cfg (s : State) : ((readRdy s).2).cfg = s.cfg := rfl
@[simp] theorem readRdy_snd_mode (s : State) : ((readRdy s).2).mode = s.mode := rfl
@[simp] theorem readRdy_snd_csN (s : State) : ((readRdy s).2).csN = s.csN := rfl
@[simp] theorem readRdy_snd_xcfg (s : State) : ((readRdy s).2).xcfg = s.xcfg := rfl
@[simp] theorem readRdy_snd_viol (s : State) : ((readRdy s).2).viol = s.viol := rfl
@[simp] theorem readRdy_snd_busy (s : State) : ((readRdy s).2).busy = s.busy := rfl
@[simp] theorem readRdy_snd_cmd (s : State) : ((readRdy s).2).cmd = s.cmd := rfl
@[simp] theorem readRdy_snd_resp (s : State) : ((readRdy s).2).resp = s.resp := rfl
@[simp] theorem readRdy_snd_trace (s : State) : ((readRdy s).2).trace = s.trace ++ [.rdy (nextLevel s)] := rfl
@[simp] theorem readRdy_snd_responses (s : State) : ((readRdy s).2).responses = s.responses := rfl
@[simp] theorem readRdy_snd_reads (s : State) : ((readRdy s).2).reads = s.reads := rfl
@[simp] theorem readRdy_snd_rxIn (s : State) : ((readRdy s).2).rxIn = s.rxIn := rfl
@[simp] theorem readRdy_snd_rdyIn (s : State) : ((readRdy s).2).rdyIn = s.rdyIn.tail := rfl
@[simp] theorem readRdy_snd_hostIn (s : State) : ((readRdy s).2).hostIn = s.hostIn := rfl

/-! ### finish r s -/

@[simp] theorem finish_cfg (r : Word64) (s : State) : (finish r s).cfg = s.cfg := rfl
@[simp] theorem finish_mode (r : Word64) (s : State) : (finish r s).mode = s.mode := rfl
@[simp] theorem finish_csN (r : Word64) (s : State) : (finish r s).csN = s.csN := rfl
@[simp] theorem finish_xcfg (r : Word64) (s : State) : (finish r s).xcfg = s.xcfg := rfl
@[simp] theorem finish_viol (r : Word64) (s : State) : (finish r s).viol = s.viol := rfl
@[simp] theorem finish_busy (r : Word64) (s : State) : (finish r s).busy = false := rfl
@[simp] theorem finish_cmd (r : Word64) (s : State) : (finish r s).cmd = s.cmd := rfl
@[simp] theorem finish_resp (r : Word64) (s : State) : (finish r s).resp = r := rfl
@[simp] theorem finish_trace (r : Word64) (s : State) : (finish r s).trace = s.trace := rfl
@[simp] theorem finish_responses (r : Word64) (s : State) : (finish r s).responses = s.responses ++ [r] := rfl
@[simp] theorem finish_reads (r : Word64) (s : State) : (finish r s).reads = s.reads := rfl
@[simp] theorem finish_rxIn (r : Word64) (s : State) : (finish r s).rxIn = s.rxIn := rfl
@[simp] theorem finish_rdyIn (r : Word64) (s : State) : (finish r s).rdyIn = s.rdyIn := rfl
@[simp] theorem finish_hostIn (r : Word64) (s : State) : (finish r s).hostIn = s.hostIn := rfl

/-! ### respond f s -/

@[simp] theorem respond_cfg (f : RespFields) (s : State) : (respond f s).cfg = s.cfg := rfl
@[simp] theorem respond_mode (f : RespFields) (s : State) : (respond f s).mode = s.mode := rfl
@[simp] theorem respond_csN (f : RespFields) (s : State) : (respond f s).csN = s.csN := rfl
@[simp] theorem respond_xcfg (f : RespFields) (s : State) : (respond f s).xcfg = s.xcfg := rfl
@[simp] theorem respond_viol (f : RespFields) (s : State) : (respond f s).viol = s.viol := rfl
@[simp] theorem respond_busy (f : RespFields) (s : State) : (respond f s).busy = false := rfl
@[simp] theorem respond_cmd (f : RespFields) (s : State) : (respond f s).cmd = s.cmd := rfl
@[simp] theorem respond_resp (f : RespFields) (s : State) : (respond f s).resp = respWord .ok (opField s.cmd) f := rfl
@[simp] theorem respond_trace (f : RespFields) (s : State) : (respond f s).trace = s.trace := rfl
@[simp] theorem respond_responses (f : RespFields) (s : State) : (respond f s).responses = s.responses ++ [respWord .ok (opField s.cmd) f] := rfl
@[simp] theorem respond_reads (f : RespFields) (s : State) : (respond f s).reads = s.reads := rfl
@[simp] theorem respond_rxIn (f : RespFields) (s : State) : (respond f s).rxIn = s.rxIn := rfl
@[simp] theorem respond_rdyIn (f : RespFields) (s : State) : (respond f s).rdyIn = s.rdyIn := rfl
@[simp] theorem respond_hostIn (f : RespFields) (s : State) : (respond f s).hostIn = s.hostIn := rfl

/-! ### raiseStatus st s -/

@[simp] theorem raiseStatus_cfg (st : Status) (s : State) : (raiseStatus st s).cfg = s.cfg := rfl
@[simp] theorem raiseStatus_mode (st : Status) (s : State) : (raiseStatus st s).mode = s.mode := rfl
@[simp] theorem raiseStatus_csN (st : Status) (s : State) : (raiseStatus st s).csN = s.csN := rfl
@[simp] theorem raiseStatus_xcfg (st : Status) (s : State) : (raiseStatus st s).xcfg = s.xcfg := rfl
@[simp] theorem raiseStatus_viol (st : Status) (s : State) : (raiseStatus st s).viol = s.viol := rfl
@[simp] theorem raiseStatus_busy (st : Status) (s : State) : (raiseStatus st s).busy = false := rfl
@[simp] theorem raiseStatus_cmd (st : Status) (s : State) : (raiseStatus st s).cmd = s.cmd := rfl
@[simp] theorem raiseStatus_resp (st : Status) (s : State) : (raiseStatus st s).resp = respWord st (opField s.cmd) {} := rfl
@[simp] theorem raiseStatus_trace (st : Status) (s : State) : (raiseStatus st s).trace = s.trace := rfl
@[simp] theorem raiseStatus_responses (st : Status) (s : State) : (raiseStatus st s).responses = s.responses ++ [respWord st (opField s.cmd) {}] := rfl
@[simp] theorem raiseStatus_reads (st : Status) (s : State) : (raiseStatus st s).reads = s.reads := rfl
@[simp] theorem raiseStatus_rxIn (st : Status) (s : State) : (raiseStatus st s).rxIn = s.rxIn := rfl
@[simp] theorem raiseStatus_rdyIn (st : Status) (s : State) : (raiseStatus st s).rdyIn = s.rdyIn := rfl
@[simp] theorem raiseStatus_hostIn (st : Status) (s : State) : (raiseStatus st s).hostIn = s.hostIn := rfl

/-! ### hostReadStat s -/

@[simp] theorem hostReadStat_cfg (s : State) : (hostReadStat s).cfg = s.cfg := rfl
@[simp] theorem hostReadStat_mode (s : State) : (hostReadStat s).mode = s.mode := rfl
@[simp] theorem hostReadStat_csN (s : State) : (hostReadStat s).csN = s.csN := rfl
@[simp] theorem hostReadStat_xcfg (s : State) : (hostReadStat s).xcfg = s.xcfg := rfl
@[simp] theorem hostReadStat_viol (s : State) : (hostReadStat s).viol = s.viol := rfl
@[simp] theorem hostReadStat_busy (s : State) : (hostReadStat s).busy = s.busy := rfl
@[simp] theorem hostReadStat_cmd (s : State) : (hostReadStat s).cmd = s.cmd := rfl
@[simp] theorem hostReadStat_resp (s : State) : (hostReadStat s).resp = s.resp := rfl
@[simp] theorem hostReadStat_trace (s : State) : (hostReadStat s).trace = s.trace := rfl
@[simp] theorem hostReadStat_responses (s : State) : (hostReadStat s).responses = s.responses := rfl
@[simp] theorem hostReadStat_reads (s : State) : (hostReadStat s).reads = s.reads ++ [.stat (statWord s)] := rfl
@[simp] theorem hostReadStat_rxIn (s : State) : (hostReadStat s).rxIn = s.rxIn := rfl
@[simp] theorem hostReadStat_rdyIn (s : State) : (hostReadStat s).rdyIn = s.rdyIn := rfl
@[simp] theorem hostReadStat_hostIn (s : State) : (hostReadStat s).hostIn = s.hostIn := rfl

/-! ### hostReadResp s -/

@[simp] theorem hostReadResp_cfg (s : State) : (hostReadResp s).cfg = s.cfg := rfl
@[simp] theorem hostReadResp_mode (s : State) : (hostReadResp s).mode = s.mode := rfl
@[simp] theorem hostReadResp_csN (s : State) : (hostReadResp s).csN = s.csN := rfl
@[simp] theorem hostReadResp_xcfg (s : State) : (hostReadResp s).xcfg = s.xcfg := rfl
@[simp] theorem hostReadResp_viol (s : State) : (hostReadResp s).viol = s.viol := rfl
@[simp] theorem hostReadResp_busy (s : State) : (hostReadResp s).busy = s.busy := rfl
@[simp] theorem hostReadResp_cmd (s : State) : (hostReadResp s).cmd = s.cmd := rfl
@[simp] theorem hostReadResp_resp (s : State) : (hostReadResp s).resp = s.resp := rfl
@[simp] theorem hostReadResp_trace (s : State) : (hostReadResp s).trace = s.trace := rfl
@[simp] theorem hostReadResp_responses (s : State) : (hostReadResp s).responses = s.responses := rfl
@[simp] theorem hostReadResp_reads (s : State) : (hostReadResp s).reads = s.reads ++ [.resp s.resp] := rfl
@[simp] theorem hostReadResp_rxIn (s : State) : (hostReadResp s).rxIn = s.rxIn := rfl
@[simp] theorem hostReadResp_rdyIn (s : State) : (hostReadResp s).rdyIn = s.rdyIn := rfl
@[simp] theorem hostReadResp_hostIn (s : State) : (hostReadResp s).hostIn = s.hostIn := rfl

/-! ### engineReset s -/

@[simp] theorem engineReset_cfg (s : State) : (engineReset s).cfg = s.cfg := rfl
@[simp] theorem engineReset_mode (s : State) : (engineReset s).mode = .unknown := rfl
@[simp] theorem engineReset_csN (s : State) : (engineReset s).csN = true := rfl
@[simp] theorem engineReset_xcfg (s : State) : (engineReset s).xcfg = false := rfl
@[simp] theorem engineReset_viol (s : State) : (engineReset s).viol = Viol.none := rfl
@[simp] theorem engineReset_busy (s : State) : (engineReset s).busy = false := rfl
@[simp] theorem engineReset_cmd (s : State) : (engineReset s).cmd = 0#64 := rfl
@[simp] theorem engineReset_resp (s : State) : (engineReset s).resp = 0#64 := rfl
@[simp] theorem engineReset_trace (s : State) : (engineReset s).trace = s.trace := rfl
@[simp] theorem engineReset_responses (s : State) : (engineReset s).responses = s.responses := rfl
@[simp] theorem engineReset_reads (s : State) : (engineReset s).reads = s.reads := rfl
@[simp] theorem engineReset_rxIn (s : State) : (engineReset s).rxIn = s.rxIn := rfl
@[simp] theorem engineReset_rdyIn (s : State) : (engineReset s).rdyIn = s.rdyIn := rfl
@[simp] theorem engineReset_hostIn (s : State) : (engineReset s).hostIn = s.hostIn := rfl

/-! ### abandon evs s -/

@[simp] theorem abandon_cfg (evs : List BusEvent) (s : State) : (abandon evs s).cfg = s.cfg := rfl
@[simp] theorem abandon_mode (evs : List BusEvent) (s : State) : (abandon evs s).mode = .unknown := rfl
@[simp] theorem abandon_csN (evs : List BusEvent) (s : State) : (abandon evs s).csN = true := rfl
@[simp] theorem abandon_xcfg (evs : List BusEvent) (s : State) : (abandon evs s).xcfg = false := rfl
@[simp] theorem abandon_viol (evs : List BusEvent) (s : State) : (abandon evs s).viol = Viol.none := rfl
@[simp] theorem abandon_busy (evs : List BusEvent) (s : State) : (abandon evs s).busy = false := rfl
@[simp] theorem abandon_cmd (evs : List BusEvent) (s : State) : (abandon evs s).cmd = 0#64 := rfl
@[simp] theorem abandon_resp (evs : List BusEvent) (s : State) : (abandon evs s).resp = 0#64 := rfl
@[simp] theorem abandon_trace (evs : List BusEvent) (s : State) : (abandon evs s).trace = s.trace ++ evs := rfl
@[simp] theorem abandon_responses (evs : List BusEvent) (s : State) : (abandon evs s).responses = s.responses := rfl
@[simp] theorem abandon_reads (evs : List BusEvent) (s : State) : (abandon evs s).reads = s.reads := rfl
@[simp] theorem abandon_rxIn (evs : List BusEvent) (s : State) : (abandon evs s).rxIn = s.rxIn.drop (countXchg evs) := rfl
@[simp] theorem abandon_rdyIn (evs : List BusEvent) (s : State) : (abandon evs s).rdyIn = s.rdyIn.drop (countRdy evs) := rfl
@[simp] theorem abandon_hostIn (evs : List BusEvent) (s : State) : (abandon evs s).hostIn = s.hostIn := rfl

/-! ### withAccepted w s -/

@[simp] theorem withAccepted_cfg (w : Word64) (s : State) : (withAccepted w s).cfg = s.cfg := rfl
@[simp] theorem withAccepted_mode (w : Word64) (s : State) : (withAccepted w s).mode = s.mode := rfl
@[simp] theorem withAccepted_csN (w : Word64) (s : State) : (withAccepted w s).csN = s.csN := rfl
@[simp] theorem withAccepted_xcfg (w : Word64) (s : State) : (withAccepted w s).xcfg = s.xcfg := rfl
@[simp] theorem withAccepted_viol (w : Word64) (s : State) : (withAccepted w s).viol = s.viol := rfl
@[simp] theorem withAccepted_busy (w : Word64) (s : State) : (withAccepted w s).busy = true := rfl
@[simp] theorem withAccepted_cmd (w : Word64) (s : State) : (withAccepted w s).cmd = w := rfl
@[simp] theorem withAccepted_resp (w : Word64) (s : State) : (withAccepted w s).resp = s.resp := rfl
@[simp] theorem withAccepted_trace (w : Word64) (s : State) : (withAccepted w s).trace = s.trace := rfl
@[simp] theorem withAccepted_responses (w : Word64) (s : State) : (withAccepted w s).responses = s.responses := rfl
@[simp] theorem withAccepted_reads (w : Word64) (s : State) : (withAccepted w s).reads = s.reads := rfl
@[simp] theorem withAccepted_rxIn (w : Word64) (s : State) : (withAccepted w s).rxIn = s.rxIn := rfl
@[simp] theorem withAccepted_rdyIn (w : Word64) (s : State) : (withAccepted w s).rdyIn = s.rdyIn := rfl
@[simp] theorem withAccepted_hostIn (w : Word64) (s : State) : (withAccepted w s).hostIn = engineFirst s.hostIn := rfl

end Sys2Proof.Machine
end

