-- ==== Sys2Proof/Laws/Ops.lean ====
section
/-! SUPPORT. What each shared operation can do, said once: the exchanges (R8, R17), the two transactions (R30, R31), the
read-modify-write (R62, R65, R72) and the end of a command (R21, R78). A proof cites these and does not unfold the
operations. -/

namespace Sys2Proof.Machine

/-! ## Bus effects -/

/-- The state after bus events that drive no line: the trace grows, each exchange uses one answer and records the
violations of R17. -/
def afterBus (s : State) (evs : List BusEvent) : State :=
  { s with
    trace := s.trace ++ evs
    rxIn := s.rxIn.drop (countXchg evs)
    viol := if countXchg evs = 0 then s.viol else violOnExchange s.csN s.xcfg s.viol }

/-- The exchanges that send `outs`; the first of them is exchange `k` of the command and receives `r k`. -/
def eventsFrom : List Byte → (Nat → Byte) → Nat → List BusEvent
  | [], _, _ => []
  | out :: outs, r, k => .xchg out (r k) :: eventsFrom outs r (k + 1)

@[simp] theorem eventsFrom_nil (r : Nat → Byte) (k : Nat) : eventsFrom [] r k = [] := rfl

@[simp] theorem eventsFrom_cons (out : Byte) (outs : List Byte) (r : Nat → Byte) (k : Nat) :
    eventsFrom (out :: outs) r k = .xchg out (r k) :: eventsFrom outs r (k + 1) := rfl

@[simp] theorem countXchg_nil : countXchg [] = 0 := rfl

@[simp] theorem countXchg_cons_xchg (o i : Byte) (es : List BusEvent) :
    countXchg (.xchg o i :: es) = countXchg es + 1 := rfl

@[simp] theorem countXchg_cons_cs (l : Bool) (es : List BusEvent) : countXchg (.cs l :: es) = countXchg es := rfl

@[simp] theorem countXchg_cons_wait (n : Nat) (es : List BusEvent) : countXchg (.wait n :: es) = countXchg es := rfl

@[simp] theorem countXchg_cons_cfg (es : List BusEvent) : countXchg (.cfg :: es) = countXchg es := rfl

@[simp] theorem countXchg_cons_rdy (l : Bool) (es : List BusEvent) : countXchg (.rdy l :: es) = countXchg es := rfl

theorem countXchg_append (as bs : List BusEvent) : countXchg (as ++ bs) = countXchg as + countXchg bs := by
  induction as with
  | nil => simp
  | cons e es ih => cases e <;> simp [ih]; omega

@[simp] theorem countRdy_nil : countRdy [] = 0 := rfl

@[simp] theorem countRdy_cons_xchg (o i : Byte) (es : List BusEvent) : countRdy (.xchg o i :: es) = countRdy es := rfl

@[simp] theorem countRdy_cons_cs (l : Bool) (es : List BusEvent) : countRdy (.cs l :: es) = countRdy es := rfl

@[simp] theorem countRdy_cons_wait (n : Nat) (es : List BusEvent) : countRdy (.wait n :: es) = countRdy es := rfl

@[simp] theorem countRdy_cons_cfg (es : List BusEvent) : countRdy (.cfg :: es) = countRdy es := rfl

@[simp] theorem countRdy_cons_rdy (l : Bool) (es : List BusEvent) : countRdy (.rdy l :: es) = countRdy es + 1 := rfl

theorem countRdy_append (as bs : List BusEvent) : countRdy (as ++ bs) = countRdy as + countRdy bs := by
  induction as with
  | nil => simp
  | cons e es ih => cases e <;> simp [ih]; omega

@[simp] theorem countXchg_eventsFrom (outs : List Byte) (r : Nat → Byte) (k : Nat) :
    countXchg (eventsFrom outs r k) = outs.length := by
  induction outs generalizing k with
  | nil => rfl
  | cons o os ih => simp [ih]

/-- Two ways to name the received bytes that agree where they are used give the same events. -/
theorem eventsFrom_congr (outs : List Byte) {r q : Nat → Byte} (k : Nat)
    (h : ∀ j, k ≤ j → j < k + outs.length → r j = q j) : eventsFrom outs r k = eventsFrom outs q k := by
  induction outs generalizing k with
  | nil => rfl
  | cons o os ih =>
    rw [eventsFrom_cons, eventsFrom_cons, h k (Nat.le_refl k) (by simp),
      ih (k + 1) (fun j h1 h2 => h j (by omega) (by simp only [List.length_cons]; omega))]

@[simp] theorem violOnExchange_idem (c x : Bool) (v : Viol) :
    violOnExchange c x (violOnExchange c x v) = violOnExchange c x v := by
  simp [violOnExchange]

@[simp] theorem afterBus_nil (s : State) : afterBus s [] = s := by simp [afterBus]

/-- Events after events are events. -/
theorem afterBus_afterBus (s : State) (as bs : List BusEvent) :
    afterBus (afterBus s as) bs = afterBus s (as ++ bs) := by
  simp only [afterBus, countXchg_append, List.append_assoc, List.drop_drop]
  by_cases ha : countXchg as = 0 <;> by_cases hb : countXchg bs = 0 <;> simp [ha, hb]

/-! ## Exchanges -/

/-- The byte an exchange receives is the next answer placed in State, if there is one (R9). -/
theorem nextByte_of_head {s : State} {b : Byte} (out : Byte) (h : s.rxIn[0]? = some b) : nextByte s out = b := by
  unfold nextByte
  cases hr : s.rxIn with
  | nil => simp [hr] at h
  | cons c cs => simpa [hr] using h

/-- A run of exchanges, the `k`-th to the `(k + n - 1)`-th of a command: it receives bytes `r k`, …, which are the answers
placed in State as far as they reach, and has the bus effect of its events. The bytes named before `k` are kept. -/
theorem xchgs_from (outs : List Byte) (s : State) (k : Nat) (r : Nat → Byte) :
    ∃ q : Nat → Byte, (∀ j, j < k → q j = r j) ∧
      (∀ j, j < outs.length → ∀ b, s.rxIn[j]? = some b → q (k + j) = b) ∧
      xchgs outs s = ((List.range outs.length).map (fun j => q (k + j)), afterBus s (eventsFrom outs q k)) := by
  induction outs generalizing s k r with
  | nil => exact ⟨r, fun _ _ => rfl, by simp, by simp [xchgs]⟩
  | cons o os ih =>
    obtain ⟨q, hq, hin, hx⟩ := ih (xchg o s).2 (k + 1) (fun j => if j = k then nextByte s o else r j)
    have hk : q k = nextByte s o := by simpa using hq k (Nat.lt_succ_self k)
    refine ⟨q, fun j hj => ?_, fun j hj b hb => ?_, ?_⟩
    · have := hq j (by omega)
      simpa [Nat.ne_of_lt hj] using this
    · cases j with
      | zero => rw [Nat.add_zero, hk]; exact nextByte_of_head o hb
      | succ j =>
        have := hin j (by simpa using hj) b (by simpa using hb)
        rwa [Nat.add_right_comm, Nat.add_assoc] at this
    · have h1 : (xchg o s).2 = afterBus s [.xchg o (q k)] := by simp [xchg, afterBus, hk]
      have h2 : (xchg o s).1 = q k := hk.symm
      simp only [xchgs, hx, h2, List.length_cons, List.range_succ_eq_map, List.map_cons, List.map_map, Nat.add_zero]
      rw [h1, afterBus_afterBus]
      simp [Function.comp_def, Nat.add_assoc, Nat.add_comm 1]

/-- The same from the first exchange of a command. -/
theorem xchgs_spec (outs : List Byte) (s : State) :
    ∃ r : Nat → Byte, Hears s outs.length r ∧
      xchgs outs s = ((List.range outs.length).map r, afterBus s (eventsFrom outs r 0)) := by
  obtain ⟨r, -, h1, h2⟩ := xchgs_from outs s 0 (fun _ => 0#8)
  exact ⟨r, fun k hk b hb => by simpa using h1 k hk b hb, by simpa using h2⟩

/-! ## Transactions -/

/-- `MemWrite` (R30): the framing byte, the command byte and the payload; nothing of what is received is kept. -/
theorem memWrite_from (a : RegAddr) (n : Nat) (b : List Byte) (s : State) (k : Nat) (r : Nat → Byte) :
    ∃ q : Nat → Byte, (∀ j, j < k → q j = r j) ∧
      (∀ j, j < (b.take n).length + 2 → ∀ x, s.rxIn[j]? = some x → q (k + j) = x) ∧
      memWrite a n b s = afterBus s (eventsFrom (s.cfg.frameByte :: writeCommand a :: b.take n) q k) := by
  obtain ⟨q, h0, h1, h2⟩ := xchgs_from (s.cfg.frameByte :: writeCommand a :: b.take n) s k r
  exact ⟨q, h0, fun j hj => h1 j (by simp only [List.length_cons]; omega), by simp only [memWrite, h2]⟩

/-- `MemRead` (R31): the framing byte, the command byte and `n` fillers; the bytes returned are those received on the
fillers, in order, unchanged. -/
theorem memRead_from (a : RegAddr) (n : Nat) (s : State) (k : Nat) (r : Nat → Byte) :
    ∃ q : Nat → Byte, (∀ j, j < k → q j = r j) ∧
      (∀ j, j < n + 2 → ∀ x, s.rxIn[j]? = some x → q (k + j) = x) ∧
      memRead a n s =
        ((List.range n).map (fun j => q (k + 2 + j)),
          afterBus s (eventsFrom (s.cfg.frameByte :: readCommand a :: List.replicate n 0x00#8) q k)) := by
  obtain ⟨q, h0, h1, h2⟩ := xchgs_from (s.cfg.frameByte :: readCommand a :: List.replicate n 0x00#8) s k r
  refine ⟨q, h0, fun j hj => h1 j (by simp only [List.length_cons, List.length_replicate]; omega), ?_⟩
  simp only [memRead, h2, List.length_cons, List.length_replicate, List.range_succ_eq_map, List.map_cons, List.map_map,
    List.drop_succ_cons, List.drop_zero]
  refine Prod.ext (List.map_congr_left fun j _ => ?_) rfl
  show q (k + (j + 1 + 1)) = q (k + 2 + j)
  congr 1
  omega

/-- The framing byte does not change on the bus. -/
@[simp] theorem afterBus_cfg (s : State) (evs : List BusEvent) : (afterBus s evs).cfg = s.cfg := rfl

@[simp] theorem afterBus_rxIn (s : State) (evs : List BusEvent) :
    (afterBus s evs).rxIn = s.rxIn.drop (countXchg evs) := rfl

/-- A 2-byte read-modify-write (R62, R65, R72) is the eight exchanges of its two transactions, writing back `f0` and `f1` of
the bytes it read. -/
theorem modify2_from (a : RegAddr) (f0 f1 : Byte → Byte) (s : State) (k : Nat) (r : Nat → Byte) :
    ∃ q : Nat → Byte, (∀ j, j < k → q j = r j) ∧
      (∀ j, j < 8 → ∀ x, s.rxIn[j]? = some x → q (k + j) = x) ∧
      modify2 a f0 f1 s =
        afterBus s (rmwEvents s.cfg.frameByte (a.setWidth 8) q k (f0 (q (k + 2))) (f1 (q (k + 3)))) := by
  obtain ⟨p, hp0, hp1, hp2⟩ := memRead_from a 2 s k r
  obtain ⟨q, hq0, hq1, hq2⟩ := memWrite_from a 2 [f0 (p (k + 2)), f1 (p (k + 3))] (memRead a 2 s).2 (k + 4) p
  refine ⟨q, fun j hj => (hq0 j (by omega)).trans (hp0 j hj), fun j hj x hx => ?_, ?_⟩
  · by_cases h : j < 4
    · rw [hq0 (k + j) (by omega)]; exact hp1 j (by omega) x hx
    · have := hq1 (j - 4) (by simp; omega) x (by
        rw [hp2]; simpa [List.getElem?_drop, show 4 + (j - 4) = j by omega] using hx)
      rwa [show k + 4 + (j - 4) = k + j by omega] at this
  · have e1 : modify2 a f0 f1 s = memWrite a 2 [f0 (p (k + 2)), f1 (p (k + 3))] (memRead a 2 s).2 := by
      simp [modify2, hp2, byteAt, List.range_succ_eq_map]
    rw [e1, hq2, hp2, afterBus_afterBus, hq0 (k + 2) (by omega), hq0 (k + 3) (by omega)]
    simp only [afterBus_cfg, eventsFrom_cons, List.replicate_succ, List.replicate_zero, eventsFrom_nil, List.take_succ_cons,
      List.take_zero, writeCommand, readCommand, rmwEvents, List.cons_append, List.nil_append, Nat.add_assoc,
      Nat.reduceAdd]
    rw [hq0 k (by omega), hq0 (k + 1) (by omega), hq0 (k + 2) (by omega), hq0 (k + 3) (by omega)]

@[simp] theorem countXchg_rmwEvents (frame addr : Byte) (r : Nat → Byte) (k : Nat) (n0 n1 : Byte) :
    countXchg (rmwEvents frame addr r k n0 n1) = 8 := rfl

/-- Two ways to name the received bytes that agree up to the last exchange give the same events. -/
theorem rmwEvents_congr {frame addr : Byte} {r q : Nat → Byte} {k : Nat} {n0 n1 : Byte}
    (h : ∀ j, j < k + 8 → r j = q j) :
    rmwEvents frame addr r k n0 n1 = rmwEvents frame addr q k n0 n1 := by
  simp only [rmwEvents, h k (by omega), h (k + 1) (by omega), h (k + 2) (by omega), h (k + 3) (by omega),
    h (k + 4) (by omega), h (k + 5) (by omega), h (k + 6) (by omega), h (k + 7) (by omega)]

theorem hears_zero (s : State) (r : Nat → Byte) : Hears s 0 r := fun _ h => absurd h (Nat.not_lt_zero _)

/-- A read-modify-write that follows `k` exchanges of the same command goes on naming the received bytes from `k`. -/
theorem modify2_after (a : RegAddr) (f0 f1 : Byte → Byte) {s t : State} {evs : List BusEvent} {k : Nat} {r : Nat → Byte}
    (ht : t = afterBus s evs) (hk : countXchg evs = k) (hr : Hears s k r) :
    ∃ q : Nat → Byte, (∀ j, j < k → q j = r j) ∧ Hears s (k + 8) q ∧
      modify2 a f0 f1 t =
        afterBus s (evs ++ rmwEvents s.cfg.frameByte (a.setWidth 8) q k (f0 (q (k + 2))) (f1 (q (k + 3)))) := by
  subst ht
  obtain ⟨q, h0, h1, h2⟩ := modify2_from a f0 f1 (afterBus s evs) k r
  refine ⟨q, h0, fun j hj b hb => ?_, by rw [h2, afterBus_afterBus, afterBus_cfg]⟩
  by_cases h : j < k
  · rw [h0 j h]; exact hr j h b hb
  · have e : k + (j - k) = j := by omega
    have := h1 (j - k) (by omega) b (by simpa [hk, List.getElem?_drop, e] using hb)
    rwa [e] at this

/-! ## Ending a command -/

/-- The end of a command touches RESP, BUSY and the record of responses alone (R21, R78). -/
theorem finish_frame (r : Word64) (s : State) :
    finish r s = { s with resp := r, busy := false, responses := s.responses ++ [r] } := rfl

/-- Packing puts the status code in bits [7:0] (R21). -/
@[simp] theorem respStatus_respWord (st : Status) (opc : BitVec 4) (f : RespFields) :
    respStatus (respWord st opc f) = statusCode st := by
  unfold respStatus respWord
  exact BitVec.extractLsb'_append_eq_right ..

/-- No status but OK has code 0 (R77). -/
theorem statusCode_eq_zero (st : Status) : statusCode st = 0#8 ↔ st = .ok := by
  cases st <;> decide

/-! ## What the outside answers (R9) -/

/-- `t` is reached from `s` by emitting `evs`, each byte and level received being the outside's answer at that point and
used once; the parameters stay. -/
structure Emits (s t : State) (evs : List BusEvent) : Prop where
  trace   : t.trace = s.trace ++ evs
  answers : EnvAnswers s.rxIn s.rdyIn s.trace evs
  rxIn    : t.rxIn = s.rxIn.drop (countXchg evs)
  rdyIn   : t.rdyIn = s.rdyIn.drop (countRdy evs)
  cfg     : t.cfg = s.cfg

theorem emits_nil (s : State) : Emits s s [] := ⟨by simp, trivial, by simp, by simp, rfl⟩

theorem envAnswers_append (rx : List Byte) (rdy : List Bool) (tr as bs : List BusEvent)
    (ha : EnvAnswers rx rdy tr as)
    (hb : EnvAnswers (rx.drop (countXchg as)) (rdy.drop (countRdy as)) (tr ++ as) bs) :
    EnvAnswers rx rdy tr (as ++ bs) := by
  induction as generalizing rx rdy tr with
  | nil => simpa using hb
  | cons e es ih =>
    cases e <;> simp only [EnvAnswers, List.cons_append, countXchg_cons_xchg, countRdy_cons_xchg, countXchg_cons_cs,
      countRdy_cons_cs, countXchg_cons_wait, countRdy_cons_wait, countXchg_cons_cfg, countRdy_cons_cfg,
      countXchg_cons_rdy, countRdy_cons_rdy] at ha hb ⊢
    · exact ⟨ha.1, ih _ _ _ ha.2 (by simpa [List.drop_tail] using hb)⟩
    · exact ih _ _ _ ha (by simpa using hb)
    · exact ih _ _ _ ha (by simpa using hb)
    · exact ih _ _ _ ha (by simpa using hb)
    · exact ⟨ha.1, ih _ _ _ ha.2 (by simpa [List.drop_tail] using hb)⟩

theorem emits_trans {s t u : State} {as bs : List BusEvent} (h : Emits s t as) (g : Emits t u bs) :
    Emits s u (as ++ bs) where
  trace := by rw [g.trace, h.trace, List.append_assoc]
  answers := envAnswers_append _ _ _ _ _ h.answers (by rw [← h.rxIn, ← h.rdyIn, ← h.trace]; exact g.answers)
  rxIn := by rw [g.rxIn, h.rxIn, List.drop_drop, countXchg_append]
  rdyIn := by rw [g.rdyIn, h.rdyIn, List.drop_drop, countRdy_append]
  cfg := g.cfg.trans h.cfg

theorem xchg_emits (out : Byte) (s : State) : Emits s (xchg out s).2 [.xchg out (nextByte s out)] where
  trace := rfl
  answers := ⟨by unfold nextByte; cases s.rxIn <;> rfl, trivial⟩
  rxIn := by simp
  rdyIn := rfl
  cfg := rfl

theorem xchgs_emits (outs : List Byte) (s : State) : ∃ evs, Emits s (xchgs outs s).2 evs := by
  induction outs generalizing s with
  | nil => exact ⟨[], emits_nil s⟩
  | cons o os ih =>
    obtain ⟨evs, h⟩ := ih (xchg o s).2
    exact ⟨_, emits_trans (xchg_emits o s) h⟩

theorem readRdy_emits (s : State) : Emits s (readRdy s).2 [.rdy (nextLevel s)] where
  trace := rfl
  answers := ⟨by unfold nextLevel; cases s.rdyIn <;> rfl, trivial⟩
  rxIn := rfl
  rdyIn := by simp
  cfg := rfl

theorem csDrive_emits (l : Bool) (s : State) : Emits s (csDrive l s) [.cs l] :=
  ⟨rfl, trivial, rfl, rfl, rfl⟩

theorem waitGap_emits (s : State) : Emits s (waitGap s) [.wait s.cfg.gap] :=
  ⟨rfl, trivial, rfl, rfl, rfl⟩

theorem xportBegin_emits (s : State) : Emits s (xportBegin s) [.cfg] :=
  ⟨rfl, trivial, rfl, rfl, rfl⟩

theorem modify2_emits (a : RegAddr) (f0 f1 : Byte → Byte) (s : State) : ∃ evs, Emits s (modify2 a f0 f1 s) evs := by
  obtain ⟨as, ha⟩ := xchgs_emits (s.cfg.frameByte :: readCommand a :: List.replicate 2 0x00#8) s
  obtain ⟨bs, hb⟩ := xchgs_emits _ (memRead a 2 s).2
  exact ⟨_, emits_trans (t := (memRead a 2 s).2) ha hb⟩

end Sys2Proof.Machine
end

