-- ==== Sys2Proof/Laws/Exec.lean ====
section
/-! SUPPORT. What a command can do, said once: which fields it keeps, what a run of exchanges changes, and that a command's
meaning does not look at the outside turns. Proofs about all commands cite `exec_shape` and
`exec_hostIn` and do not unfold the meanings again. -/

namespace Sys2Proof.Machine

/-- The host-side fields a command keeps until it ends (R20, R21). -/
structure Keeps (s u : State) : Prop where
  cmd       : u.cmd = s.cmd
  resp      : u.resp = s.resp
  responses : u.responses = s.responses
  reads     : u.reads = s.reads
  hostIn    : u.hostIn = s.hostIn
  busy      : u.busy = s.busy

theorem Keeps.refl (s : State) : Keeps s s := ⟨rfl, rfl, rfl, rfl, rfl, rfl⟩

theorem Keeps.trans {s t u : State} (a : Keeps s t) (b : Keeps t u) : Keeps s u :=
  ⟨b.cmd.trans a.cmd, b.resp.trans a.resp, b.responses.trans a.responses, b.reads.trans a.reads,
    b.hostIn.trans a.hostIn, b.busy.trans a.busy⟩

/-- `u` is `s` after the exchanges `evs`, `n` of them, and nothing else (R8, R17). -/
structure OnBus (s u : State) (evs : List BusEvent) (n : Nat) : Prop where
  emits : Emits s u evs
  keeps : Keeps s u
  count : countXchg evs = n
  only  : ∀ e ∈ evs, ∃ out inp, e = BusEvent.xchg out inp
  mode  : u.mode = s.mode
  csN   : u.csN = s.csN
  xcfg  : u.xcfg = s.xcfg
  viol  : u.viol = if n = 0 then s.viol else violOnExchange s.csN s.xcfg s.viol

theorem OnBus.trans {s t u : State} {as bs : List BusEvent} {m n : Nat}
    (a : OnBus s t as m) (b : OnBus t u bs n) : OnBus s u (as ++ bs) (m + n) where
  emits := emits_trans a.emits b.emits
  keeps := a.keeps.trans b.keeps
  count := by rw [countXchg_append, a.count, b.count]
  only := by
    intro e he
    rcases List.mem_append.1 he with he | he
    · exact a.only e he
    · exact b.only e he
  mode := b.mode.trans a.mode
  csN := b.csN.trans a.csN
  xcfg := b.xcfg.trans a.xcfg
  viol := by
    rw [b.viol, a.viol, a.csN, a.xcfg]
    by_cases hm : m = 0 <;> by_cases hn : n = 0 <;> simp [hm, hn]

theorem xchg_onBus (out : Byte) (s : State) : OnBus s (xchg out s).2 [.xchg out (nextByte s out)] 1 :=
  ⟨xchg_emits out s, ⟨rfl, rfl, rfl, rfl, rfl, rfl⟩, rfl, by simp, rfl, rfl, rfl, rfl⟩

theorem xchgs_onBus (outs : List Byte) (s : State) : ∃ evs, OnBus s (xchgs outs s).2 evs outs.length := by
  induction outs generalizing s with
  | nil => exact ⟨[], emits_nil s, Keeps.refl s, rfl, by simp, rfl, rfl, rfl, rfl⟩
  | cons o os ih =>
    obtain ⟨evs, h⟩ := ih (xchg o s).2
    have := (xchg_onBus o s).trans h
    rw [Nat.add_comm] at this
    exact ⟨_, this⟩

theorem memWrite_onBus (a : RegAddr) (n : Nat) (b : List Byte) (s : State) :
    ∃ evs, OnBus s (memWrite a n b s) evs ((b.take n).length + 2) :=
  xchgs_onBus (s.cfg.frameByte :: writeCommand a :: b.take n) s

theorem memRead_onBus (a : RegAddr) (n : Nat) (s : State) : ∃ evs, OnBus s (memRead a n s).2 evs (n + 2) := by
  obtain ⟨e, h⟩ := xchgs_onBus (s.cfg.frameByte :: readCommand a :: List.replicate n 0x00#8) s
  exact ⟨e, by simpa [memRead] using h⟩

theorem modify2_onBus (a : RegAddr) (f0 f1 : Byte → Byte) (s : State) : ∃ evs, OnBus s (modify2 a f0 f1 s) evs 8 := by
  obtain ⟨e, h⟩ := memRead_onBus a 2 s
  obtain ⟨e2, h2⟩ := memWrite_onBus a 2 [f0 (byteAt (memRead a 2 s).1 0), f1 (byteAt (memRead a 2 s).1 1)] (memRead a 2 s).2
  exact ⟨_, h.trans h2⟩

theorem modeActions_onBus (m : ConvMode) (s : State) : ∃ evs n, OnBus s (modeActions m s) evs n := by
  cases m with
  | cc =>
    obtain ⟨_, h1⟩ := modify2_onBus s.cfg.addrIfMode id clearContRead s
    obtain ⟨_, h2⟩ := modify2_onBus (clrCR s).cfg.addrAdcMode id adcModeCC (clrCR s)
    exact ⟨_, _, h1.trans h2⟩
  | sc =>
    obtain ⟨_, h1⟩ := modify2_onBus s.cfg.addrIfMode id clearContRead s
    obtain ⟨_, h2⟩ := modify2_onBus (clrCR s).cfg.addrAdcMode id adcModeSC (clrCR s)
    exact ⟨_, _, h1.trans h2⟩
  | cr =>
    obtain ⟨_, h1⟩ := modify2_onBus s.cfg.addrIfMode id clearContRead s
    obtain ⟨_, h2⟩ := modify2_onBus (clrCR s).cfg.addrIfMode id clearContRead (clrCR s)
    obtain ⟨_, h3⟩ := modify2_onBus (clrCR (clrCR s)).cfg.addrAdcMode id adcModeCC (clrCR (clrCR s))
    obtain ⟨_, h4⟩ := modify2_onBus (adcCC (clrCR (clrCR s))).cfg.addrIfMode id setContRead (adcCC (clrCR (clrCR s)))
    exact ⟨_, _, ((h1.trans h2).trans h3).trans h4⟩
  | unknown => exact ⟨[], 0, emits_nil s, Keeps.refl s, rfl, by simp, rfl, rfl, rfl, rfl⟩

/-- `MODE` after a command that completes (R13). -/
def ModeAfter (i : Instr) (s u : State) : Prop :=
  match i with
  | .wrreg _ _ _ _ _ => u.mode = s.mode
  | .rdreg _ _ => u.mode = s.mode
  | .reset => u.mode = .unknown
  | .resync => u.mode = s.mode
  | .setch _ _ => u.mode = s.mode
  | .setmode a => some u.mode = targetMode? a
  | .rdsample => u.mode = s.mode
  | .setrate _ => u.mode = s.mode
  | .tosigned _ _ _ => u.mode = s.mode
  | .init => u.mode = s.mode
  | .rdyq => u.mode = s.mode

/-- A command is refused with a status other than OK before it did anything, or it did its work and then responded. -/
theorem exec_shape (i : Instr) (s : State) :
    (∃ st, st ≠ Status.ok ∧ exec i s = .next (raiseStatus st s)) ∨
    (∃ f u evs, exec i s = .next (respond f u) ∧ Emits s u evs ∧ Keeps s u ∧ ModeAfter i s u ∧
      (u.csN = if i = .resync ∨ i = .init then false else s.csN) ∧
      (u.xcfg = if i = .init then true else s.xcfg)) := by
  have bus : ∀ {f u evs n}, exec i s = .next (respond f u) → OnBus s u evs n → i ≠ .resync → i ≠ .init →
      (u.mode = s.mode → ModeAfter i s u) →
      (∃ f u evs, exec i s = .next (respond f u) ∧ Emits s u evs ∧ Keeps s u ∧ ModeAfter i s u ∧
        (u.csN = if i = .resync ∨ i = .init then false else s.csN) ∧
        (u.xcfg = if i = .init then true else s.xcfg)) := by
    intro f u evs n he hb h1 h2 hm
    exact ⟨f, u, evs, he, hb.emits, hb.keeps, hm hb.mode, by simpa [h1, h2] using hb.csN, by simpa [h2] using hb.xcfg⟩
  cases i with
  | wrreg a len b0 b1 b2 =>
    by_cases h : (addrInRange a && lenInRange len) = true
    · obtain ⟨e, he⟩ := memWrite_onBus (regAddr a) len.toNat [b0, b1, b2] s
      exact .inr (bus (by simp only [exec, execWrreg, h, if_true]; rfl) he (by simp) (by simp) id)
    · exact .inl ⟨.outOfRange, by decide, by simp [exec, execWrreg, h]⟩
  | rdreg a len =>
    by_cases h : (addrInRange a && lenInRange len) = true
    · obtain ⟨e, he⟩ := memRead_onBus (regAddr a) len.toNat s
      exact .inr (bus (by simp only [exec, execRdreg, h, if_true]; rfl) he (by simp) (by simp) id)
    · exact .inl ⟨.outOfRange, by decide, by simp [exec, execRdreg, h]⟩
  | reset =>
    obtain ⟨e, he⟩ := xchgs_onBus (List.replicate 16 0xFF#8) s
    exact .inr ⟨_, _, e, rfl,
      ⟨he.emits.trace, he.emits.answers, he.emits.rxIn, he.emits.rdyIn, he.emits.cfg⟩,
      ⟨he.keeps.1, he.keeps.2, he.keeps.3, he.keeps.4, he.keeps.5, he.keeps.6⟩, rfl,
      by simpa using he.csN, by simpa using he.xcfg⟩
  | resync =>
    exact .inr ⟨_, _, _, rfl,
      emits_trans (emits_trans (csDrive_emits _ _) (waitGap_emits _)) (csDrive_emits _ _),
      ⟨rfl, rfl, rfl, rfl, rfl, rfl⟩, rfl, by simp [resyncLine], by simp [resyncLine]⟩
  | setch a en =>
    by_cases h : chanInRange a = true
    · obtain ⟨e, he⟩ := modify2_onBus (regAddr a) (channelByte0 en) (fun _ => channelByte1 a) s
      exact .inr (bus (by simp only [exec, execSetch, h, if_true]; rfl) he (by simp) (by simp) id)
    · exact .inl ⟨.outOfRange, by decide, by simp [exec, execSetch, h]⟩
  | setmode a =>
    cases ht : targetMode? a with
    | none => exact .inl ⟨.invalidMode, by decide, by simp [exec, execSetmode, ht]⟩
    | some m =>
      obtain ⟨e, n, he⟩ := modeActions_onBus m s
      exact .inr ⟨{}, { modeActions m s with mode := m }, e, by simp [exec, execSetmode, ht],
        ⟨he.emits.trace, he.emits.answers, he.emits.rxIn, he.emits.rdyIn, he.emits.cfg⟩,
        ⟨he.keeps.1, he.keeps.2, he.keeps.3, he.keeps.4, he.keeps.5, he.keeps.6⟩, by simp [ModeAfter, ht],
        by simpa using he.csN, by simpa using he.xcfg⟩
  | rdsample =>
    cases hm : s.mode with
    | unknown => exact .inl ⟨.modeUnset, by decide, by simp [exec, execRdsample, hm]⟩
    | cr =>
      obtain ⟨e, he⟩ := xchgs_onBus (List.replicate 3 0x00#8) s
      exact .inr (bus (by simp only [exec, execRdsample, hm]; rfl) he (by simp) (by simp) id)
    | cc =>
      obtain ⟨e, he⟩ := memRead_onBus s.cfg.addrData 3 s
      exact .inr (bus (by simp only [exec, execRdsample, hm]; rfl) he (by simp) (by simp) id)
    | sc =>
      obtain ⟨e, he⟩ := memRead_onBus s.cfg.addrData 3 s
      exact .inr (bus (by simp only [exec, execRdsample, hm]; rfl) he (by simp) (by simp) id)
  | setrate a =>
    by_cases h : rateInRange s.cfg.ratePacking a = true
    · obtain ⟨e, he⟩ := modify2_onBus s.cfg.addrFilt0 (filterByte0 s.cfg.ratePacking) (filterByte1 s.cfg.ratePacking a) s
      exact .inr (bus (by simp only [exec, execSetrate, h, if_true]; rfl) he (by simp) (by simp) id)
    · exact .inl ⟨.outOfRange, by decide, by simp [exec, execSetrate, h]⟩
  | tosigned b0 b1 b2 =>
    exact .inr ⟨_, _, [], rfl, emits_nil s, Keeps.refl s, rfl, by simp, by simp⟩
  | init =>
    obtain ⟨e, he⟩ := memRead_onBus (resyncLine (xportBegin s)).cfg.addrId 2 (resyncLine (xportBegin s))
    refine .inr ⟨_, _, _, rfl,
      emits_trans (emits_trans (xportBegin_emits _)
        (emits_trans (emits_trans (csDrive_emits _ _) (waitGap_emits _)) (csDrive_emits _ _))) he.emits,
      Keeps.trans (t := resyncLine (xportBegin s)) ⟨rfl, rfl, rfl, rfl, rfl, rfl⟩ he.keeps, he.mode, ?_, ?_⟩
    · simpa [resyncLine] using he.csN
    · simpa [resyncLine] using he.xcfg
  | rdyq => exact .inr ⟨_, _, _, rfl, readRdy_emits s, ⟨rfl, rfl, rfl, rfl, rfl, rfl⟩, rfl, by simp, by simp⟩

/-! ## What a meaning does not look at -/

/-- `s` with another `MODE` and other outside turns. -/
def State.ctx (m : ConvMode) (ts : List HostTurn) (s : State) : State := { s with mode := m, hostIn := ts }

@[simp] theorem ctx_cfg (m : ConvMode) (ts : List HostTurn) (s : State) : (s.ctx m ts).cfg = s.cfg := rfl

@[simp] theorem ctx_mode (m : ConvMode) (ts : List HostTurn) (s : State) : (s.ctx m ts).mode = m := rfl

theorem xchgs_ctx (m : ConvMode) (ts : List HostTurn) (outs : List Byte) (s : State) :
    xchgs outs (s.ctx m ts) = ((xchgs outs s).1, (xchgs outs s).2.ctx m ts) := by
  induction outs generalizing s with
  | nil => rfl
  | cons o os ih =>
    have : xchg o (s.ctx m ts) = ((xchg o s).1, (xchg o s).2.ctx m ts) := rfl
    simp only [xchgs, this, ih]

theorem memRead_ctx (m : ConvMode) (ts : List HostTurn) (a : RegAddr) (n : Nat) (s : State) :
    memRead a n (s.ctx m ts) = ((memRead a n s).1, (memRead a n s).2.ctx m ts) := by
  simp only [memRead, ctx_cfg, xchgs_ctx]

theorem memWrite_ctx (m : ConvMode) (ts : List HostTurn) (a : RegAddr) (n : Nat) (b : List Byte) (s : State) :
    memWrite a n b (s.ctx m ts) = (memWrite a n b s).ctx m ts := by
  simp only [memWrite, ctx_cfg, xchgs_ctx]

theorem modify2_ctx (m : ConvMode) (ts : List HostTurn) (a : RegAddr) (f0 f1 : Byte → Byte) (s : State) :
    modify2 a f0 f1 (s.ctx m ts) = (modify2 a f0 f1 s).ctx m ts := by
  simp only [modify2, memRead_ctx, memWrite_ctx]

theorem modeActions_ctx (m : ConvMode) (ts : List HostTurn) (x : ConvMode) (s : State) :
    modeActions x (s.ctx m ts) = (modeActions x s).ctx m ts := by
  cases x <;> simp only [modeActions, clrCR, setCR, adcCC, adcSC, ctx_cfg, modify2_ctx]

theorem exec_ctx (i : Instr) (ts : List HostTurn) (s t : State) (h : exec i s = .next t) :
    exec i (s.ctx s.mode ts) = .next (t.ctx t.mode ts) := by
  have fin : ∀ (f : RespFields) (u : State), u.mode = s.mode →
      Host.Outcome.next (φ := Fault) (ρ := Refusal) (respond f u) = .next t →
      Host.Outcome.next (φ := Fault) (ρ := Refusal) (respond f (u.ctx s.mode ts)) = .next (t.ctx t.mode ts) := by
    intro f u hu he
    cases he
    rw [← hu]; rfl
  have ref : ∀ st : Status, Host.Outcome.next (φ := Fault) (ρ := Refusal) (raiseStatus st s) = .next t →
      Host.Outcome.next (φ := Fault) (ρ := Refusal) (raiseStatus st (s.ctx s.mode ts)) = .next (t.ctx t.mode ts) := by
    intro st he
    cases he
    rfl
  have mX : ∀ o (u : State), (xchgs o u).2.mode = u.mode := fun o u => (xchgs_onBus o u).choose_spec.mode
  have mR : ∀ a n (u : State), (memRead a n u).2.mode = u.mode := fun a n u => (memRead_onBus a n u).choose_spec.mode
  have mW : ∀ a n b (u : State), (memWrite a n b u).mode = u.mode := fun a n b u => mX _ u
  have m2 : ∀ a f g (u : State), (modify2 a f g u).mode = u.mode := fun a f g u => (modify2_onBus a f g u).choose_spec.mode
  cases i with
  | wrreg a len b0 b1 b2 =>
    simp only [exec, execWrreg, memWrite_ctx] at h ⊢
    split at h <;> rename_i hc
    · rw [if_pos hc]; exact fin _ _ (mW ..) h
    · rw [if_neg hc]; exact ref _ h
  | rdreg a len =>
    simp only [exec, execRdreg, memRead_ctx] at h ⊢
    split at h <;> rename_i hc
    · rw [if_pos hc]; exact fin _ _ (mR ..) h
    · rw [if_neg hc]; exact ref _ h
  | reset =>
    simp only [exec, execReset, xchgs_ctx] at h ⊢
    cases h
    rfl
  | resync => exact fin _ _ (by simp [resyncLine]) h
  | setch a en =>
    simp only [exec, execSetch, modify2_ctx] at h ⊢
    split at h <;> rename_i hc
    · rw [if_pos hc]; exact fin _ _ (m2 ..) h
    · rw [if_neg hc]; exact ref _ h
  | setmode a =>
    simp only [exec, execSetmode, modeActions_ctx] at h ⊢
    split at h
    · cases h; rfl
    · exact ref _ h
  | rdsample =>
    have e : (s.ctx s.mode ts).mode = s.mode := rfl
    simp only [exec, execRdsample, e] at h ⊢
    generalize hm : s.mode = md at *
    cases md <;> simp only [xchgs_ctx, memRead_ctx, ctx_cfg] at h ⊢
    · simpa using fin _ _ ((mR ..).trans hm) h
    · simpa using fin _ _ ((mR ..).trans hm) h
    · simpa using fin _ _ ((mX ..).trans hm) h
    · simpa using ref _ h
  | setrate a =>
    simp only [exec, execSetrate, modify2_ctx, ctx_cfg] at h ⊢
    split at h <;> rename_i hc
    · rw [if_pos hc]; exact fin _ _ (m2 ..) h
    · rw [if_neg hc]; exact ref _ h
  | tosigned b0 b1 b2 => exact fin _ _ rfl h
  | init =>
    have e : resyncLine (xportBegin (s.ctx s.mode ts)) = (resyncLine (xportBegin s)).ctx s.mode ts := rfl
    simp only [exec, execInit, e, memRead_ctx, ctx_cfg] at h ⊢
    exact fin _ _ ((mR ..).trans (by simp [resyncLine])) h
  | rdyq => exact fin { flag := !(readRdy s).1 } (readRdy s).2 rfl h

/-- A command's meaning does not look at the outside turns to come: it runs the same with any others in place. -/
theorem exec_hostIn (i : Instr) (ts : List HostTurn) (s t : State) (h : exec i s = .next t) :
    exec i { s with hostIn := ts } = .next { t with hostIn := ts } :=
  exec_ctx i ts s t h

end Sys2Proof.Machine
end

