-- ==== Sys2Proof/Laws/PerInstr.lean ====
section
/-! SUPPORT. Per-instruction families. `RowMatch`: the word an instruction encodes to is accepted by the row of the opcode
table that has its mnemonic (R42, R43, R56), with every operand at every value. -/

namespace Sys2Proof.Laws

/-- The instruction's word is accepted by the row of its mnemonic. -/
def RowMatch.Statement (i : Instr) : Prop :=
  ∃ row ∈ opcodeRows, row.mnemonic = mnemonic i ∧ row.accepts (encode i) = true

theorem wrreg_masked (a : Byte) (len : BitVec 2) (b0 b1 b2 : Byte) :
    packWord 0x1#4 a len b0 b1 b2 0#1 &&& 0xFFFF000000FC00FF#64 = 0x1#64 := by
  ext i hi
  rw [← BitVec.getLsbD_eq_getElem, ← BitVec.getLsbD_eq_getElem, BitVec.getLsbD_and,
    getLsbD_packWord _ _ _ _ _ _ _ i hi]
  interval_cases i <;> simp

theorem rdreg_masked (a : Byte) (len : BitVec 2) :
    packWord 0x2#4 a len 0#8 0#8 0#8 0#1 &&& 0xFFFFFFFFFFFC00FF#64 = 0x2#64 := by
  ext i hi
  rw [← BitVec.getLsbD_eq_getElem, ← BitVec.getLsbD_eq_getElem, BitVec.getLsbD_and,
    getLsbD_packWord _ _ _ _ _ _ _ i hi]
  interval_cases i <;> simp

theorem setch_masked (a : Byte) (en : BitVec 1) :
    packWord 0x5#4 a 0#2 0#8 0#8 0#8 en &&& 0xFFFEFFFFFFFF00FF#64 = 0x5#64 := by
  ext i hi
  rw [← BitVec.getLsbD_eq_getElem, ← BitVec.getLsbD_eq_getElem, BitVec.getLsbD_and,
    getLsbD_packWord _ _ _ _ _ _ _ i hi]
  interval_cases i <;> simp

/-- SETMODE and SETRATE have one mask (R43). -/
theorem operandA_masked (op : BitVec 4) (a : Byte) :
    packWord op a 0#2 0#8 0#8 0#8 0#1 &&& 0xFFFFFFFFFFFF00FF#64 = op.setWidth 64 := by
  ext i hi
  rw [← BitVec.getLsbD_eq_getElem, ← BitVec.getLsbD_eq_getElem, BitVec.getLsbD_and,
    getLsbD_packWord _ _ _ _ _ _ _ i hi]
  interval_cases i <;> simp

theorem tosigned_masked (b0 b1 b2 : Byte) :
    packWord 0x9#4 0#8 0#2 b0 b1 b2 0#1 &&& 0xFFFF000000FFFFFF#64 = 0x9#64 := by
  ext i hi
  rw [← BitVec.getLsbD_eq_getElem, ← BitVec.getLsbD_eq_getElem, BitVec.getLsbD_and,
    getLsbD_packWord _ _ _ _ _ _ _ i hi]
  interval_cases i <;> simp

theorem RowMatch.wrreg (a : Byte) (len : BitVec 2) (b0 b1 b2 : Byte) :
    RowMatch.Statement (.wrreg a len b0 b1 b2) :=
  ⟨opcodeRows[0], by simp [opcodeRows], rfl, by
    simpa [OpcodeRow.accepts, opcodeRows, encode] using wrreg_masked a len b0 b1 b2⟩

theorem RowMatch.rdreg (a : Byte) (len : BitVec 2) : RowMatch.Statement (.rdreg a len) :=
  ⟨opcodeRows[1], by simp [opcodeRows], rfl, by
    simpa [OpcodeRow.accepts, opcodeRows, encode] using rdreg_masked a len⟩

theorem RowMatch.reset : RowMatch.Statement .reset := ⟨opcodeRows[2], by simp [opcodeRows], rfl, by decide⟩

theorem RowMatch.resync : RowMatch.Statement .resync := ⟨opcodeRows[3], by simp [opcodeRows], rfl, by decide⟩

theorem RowMatch.setch (a : Byte) (en : BitVec 1) : RowMatch.Statement (.setch a en) :=
  ⟨opcodeRows[4], by simp [opcodeRows], rfl, by
    simpa [OpcodeRow.accepts, opcodeRows, encode] using setch_masked a en⟩

theorem RowMatch.setmode (a : Byte) : RowMatch.Statement (.setmode a) :=
  ⟨opcodeRows[5], by simp [opcodeRows], rfl, by
    simpa [OpcodeRow.accepts, opcodeRows, encode] using operandA_masked 0x6#4 a⟩

theorem RowMatch.rdsample : RowMatch.Statement .rdsample := ⟨opcodeRows[6], by simp [opcodeRows], rfl, by decide⟩

theorem RowMatch.setrate (a : Byte) : RowMatch.Statement (.setrate a) :=
  ⟨opcodeRows[7], by simp [opcodeRows], rfl, by
    simpa [OpcodeRow.accepts, opcodeRows, encode] using operandA_masked 0x8#4 a⟩

theorem RowMatch.tosigned (b0 b1 b2 : Byte) : RowMatch.Statement (.tosigned b0 b1 b2) :=
  ⟨opcodeRows[8], by simp [opcodeRows], rfl, by
    simpa [OpcodeRow.accepts, opcodeRows, encode] using tosigned_masked b0 b1 b2⟩

theorem RowMatch.init : RowMatch.Statement .init := ⟨opcodeRows[9], by simp [opcodeRows], rfl, by decide⟩

theorem RowMatch.rdyq : RowMatch.Statement .rdyq := ⟨opcodeRows[10], by simp [opcodeRows], rfl, by decide⟩

end Sys2Proof.Laws
end

