-- ==== Sys2Proof/Laws/Run.lean ====
section
/-! SUPPORT. The end of a run (R104): how the first ended state is reached, and that after the end nothing but the engine reset
changes the final state. -/

namespace Sys2Proof.Machine

@[simp] theorem runToEnd_of_ended (n : Nat) (s : State) (h : runEnded s = true) : runToEnd n s = some s := by
  cases n <;> simp [runToEnd, h]

theorem runToEnd_of_step (n : Nat) (s t : State) (h : runEnded s = false) (hs : step s = .next t) :
    runToEnd (n + 1) s = runToEnd n t := by
  simp [runToEnd, h, hs]

/-- Once a run has ended, a step that is no engine reset keeps the final state, and the run stays ended. -/
theorem finalState_of_ended (s t : State) (h : runEnded s = true) (hs : step s = .next t)
    (hr : ∀ k ts, s.hostIn ≠ .reset k :: ts) : finalState t = finalState s ∧ runEnded t = true := by
  have hb : s.busy = false := by simpa using (Bool.and_eq_true_iff.1 h).2
  cases hh : s.hostIn with
  | nil =>
    simp only [step, turnStep, hh, engineTurn, hb, Bool.false_eq_true, if_false, Host.Outcome.next.injEq] at hs
    rw [← hs]
    exact ⟨rfl, h⟩
  | cons turn ts =>
    have hw : turn.isWrite = false ∧ ts.any HostTurn.isWrite = false := by
      simpa [runEnded, hh, hb] using h
    have ended : ∀ u : State, u.hostIn = ts → u.busy = false → runEnded u = true := by
      intro u h1 h2
      rw [runEnded, h1, h2, hw.2]; rfl
    cases turn with
    | write w => simp [HostTurn.isWrite] at hw
    | readStat =>
      simp only [step, turnStep, hh, takeTurn, hostReadStat, Host.Outcome.next.injEq] at hs
      rw [← hs]
      exact ⟨rfl, ended _ rfl hb⟩
    | readResp =>
      simp only [step, turnStep, hh, takeTurn, hostReadResp, Host.Outcome.next.injEq] at hs
      rw [← hs]
      exact ⟨rfl, ended _ rfl hb⟩
    | reset k => exact absurd hh (hr k ts)
    | idle =>
      simp only [step, turnStep, hh, takeTurn, engineTurn, hb, Bool.false_eq_true, if_false, Host.Outcome.next.injEq] at hs
      rw [← hs]
      exact ⟨by simp [finalState, hb], ended _ rfl rfl⟩

end Sys2Proof.Machine
end

