-- ==== Sys2Proof/Tests/Slice0.lean ====
section
/-! SUPPORT. The model's own tests: the assembly checks refuse ill-formed operands; a word of every command, written out from
R41 and R42, decodes to it; one step of each command gives what 95_test_vectors.md says (the vector is named at each test); and
for every statement with hypotheses a concrete state and operands that meet them all (`test_witness_<Name>`). -/

namespace Sys2Proof.Tests

open Sys2Proof.Machine Sys2Proof.Claims

/-! ## Helpers -/

/-- The ready state of 95_test_vectors.md, with a mode and the bytes the device will answer. -/
def ready (m : ConvMode) (rx : List Byte) : State :=
  { State.reset with mode := m, csN := false, xcfg := true, rxIn := rx }

/-- The ready state with a command word accepted. -/
def running (w : Word64) (m : ConvMode) (rx : List Byte) : State := { ready m rx with cmd := w, busy := true }

/-- The next state of an outcome. -/
def next? : Host.Outcome State Fault Refusal → Option State
  | .next s => some s
  | .fault _ => none
  | .refused _ => none

/-- `next? o = some t` says no more and no less than `o = .next t`. -/
theorem test_next_iff (o : Host.Outcome State Fault Refusal) (t : State) : next? o = some t ↔ o = .next t := by
  cases o <;> simp [next?]

/-- The state after a command, or the state itself. -/
def after (i : Instr) (s : State) : State := (next? (exec i s)).getD s

/-- The state after a step, or the state itself. -/
def stepped (s : State) : State := (next? (step s)).getD s

/-- What one step on a command word shows: the events, the response, STAT. -/
def seen (w : Nat) (s : State) : List BusEvent × Word64 × Word32 :=
  let t := stepped (s.withFetchWord 64 w)
  (t.trace, t.resp, statWord t)

/-- Exchanges written as pairs of the byte sent and the byte received. -/
def xs (l : List (Byte × Byte)) : List BusEvent := l.map fun p => .xchg p.1 p.2

/-- The bytes sent, with the response and STAT, for the longer vectors. -/
def seenSent (w : Nat) (s : State) : List Byte × Word64 × Word32 :=
  let t := stepped (s.withFetchWord 64 w)
  (sent t.trace, t.resp, statWord t)

/-! ## The assembly checks refuse what does not fit (R56) -/

theorem test_wf_refuses_addr : (AsmCmd.rdreg 0x100 2).wf = false := by decide
theorem test_wf_refuses_len : (AsmCmd.rdreg 0x07 4).wf = false := by decide
theorem test_wf_refuses_byte : (AsmCmd.wrreg 0x07 1 0x100 none none).wf = false := by decide
theorem test_wf_refuses_optional_byte : (AsmCmd.wrreg 0x07 2 0x00 (some 0x100) none).wf = false := by decide
theorem test_wf_refuses_omitted_byte : (AsmCmd.wrreg 0x07 2 0x00 none none).wf = false := by decide
theorem test_wf_refuses_gap_in_bytes : (AsmCmd.wrreg 0x07 1 0x00 none (some 1)).wf = false := by decide
theorem test_wf_refuses_enable : (AsmCmd.setch 0x10 2).wf = false := by decide
theorem test_wf_refuses_target : (AsmCmd.setmode (.num 0x100)).wf = false := by decide
theorem test_wf_refuses_rate : (AsmCmd.setrate 0x100).wf = false := by decide
theorem test_wf_refuses_sample_byte : (AsmCmd.tosigned 0 0x100 0).wf = false := by decide
theorem test_wf_refuses_pseudo_value : (AsmLine.wr16 0x07 0x10000).valueFits = false := by decide
theorem test_wf_takes_out_of_range_address : (AsmCmd.rdreg 0x40 2).wf = true := by decide
theorem test_config_refuses_address : Config.build? 0 0x40 2 4 7 0x28 .word13 1 .msbFirst = none := by decide
theorem test_config_refuses_gap : Config.build? 0 1 2 4 7 0x28 .word13 0 .msbFirst = none := by decide

/-! ## Words written out from R41 and R42

Fields from the high end: [63:49] 0, EN, B2, B1, B0, [23:18] 0, LEN, A, [7:4] 0, OP. -/

/-- A word from its fields, high bits first. -/
def fields (en : BitVec 1) (b2 b1 b0 : Byte) (len : BitVec 2) (a : Byte) (op : BitVec 4) : Word64 :=
  0b000000000000000#15 ++ en ++ b2 ++ b1 ++ b0 ++ 0b000000#6 ++ len ++ a ++ 0b0000#4 ++ op

theorem test_decode_wrreg :
    decode (fields 0b0 0b01110111 0b01100110 0b01010101 0b11 0b00111000 0b0001) = some (.wrreg 0x38 3 0x55 0x66 0x77) := by
  decide
theorem test_decode_rdreg : decode (fields 0b0 0 0 0 0b10 0b00000111 0b0010) = some (.rdreg 0x07 2) := by decide
theorem test_decode_reset : decode (fields 0b0 0 0 0 0b00 0 0b0011) = some .reset := by decide
theorem test_decode_resync : decode (fields 0b0 0 0 0 0b00 0 0b0100) = some .resync := by decide
theorem test_decode_setch : decode (fields 0b1 0 0 0 0b00 0b00011000 0b0101) = some (.setch 0x18 1) := by decide
theorem test_decode_setmode : decode (fields 0b0 0 0 0 0b00 0b00000010 0b0110) = some (.setmode 0x02) := by decide
theorem test_decode_rdsample : decode (fields 0b0 0 0 0 0b00 0 0b0111) = some .rdsample := by decide
theorem test_decode_setrate : decode (fields 0b0 0 0 0 0b00 0b00001010 0b1000) = some (.setrate 0x0A) := by decide
theorem test_decode_tosigned :
    decode (fields 0b0 0b00100011 0b00000001 0b10000000 0b00 0 0b1001) = some (.tosigned 0x80 0x01 0x23) := by decide
theorem test_decode_init : decode (fields 0b0 0 0 0 0b00 0 0b1010) = some .init := by decide
theorem test_decode_rdyq : decode (fields 0b0 0 0 0 0b00 0 0b1011) = some .rdyq := by decide

/-- The fifteen illegal words of table L2.7. -/
theorem test_decode_illegal :
    [0x0, 0xC, 0xF, 0x13, 0x103, 0x0001000000020702, 0x0000000001020702, 0x0001000000010701, 0x0000000000050701,
      0x0000000000011005, 0x0000000001000006, 0x0000000000000109, 0x800000000000000B, 0x000200000000000A,
      0x0000000000010306].all (fun w => decide (decodeTableWord 64 w = none)) = true := by decide

/-- Assembled words of table L2.1 and program P2. -/
theorem test_assemble :
    AsmLine.assemble? Config.default (.wr24 0x38 0x556677) = some 0x0000776655033801#64 ∧
    AsmLine.assemble? Config.default (.ench 0x10) = some 0x0001000000001005#64 ∧
    AsmLine.assemble? Config.default .rdid = some 0x0000000000020702#64 := by decide

/-- P2, steps 8 and 9, and R57's byte order of WR16. -/
theorem test_assemble_pseudo :
    AsmLine.assemble? Config.default (.rd16 0x10) = some 0x0000000000021002#64 ∧
    AsmLine.assemble? Config.default (.disch 0x10) = some 0x0000000000001005#64 ∧
    AsmLine.assemble? Config.default (.wr16 0x3F 0x1234) = some 0x0000003412023F01#64 := by decide

/-! ## One step of each command (95_test_vectors.md) -/

/-- L2.1, third row: `B1` is ignored. -/
theorem test_wrreg_one_byte : seen 0x0000006655013801 (ready .unknown [1, 2, 3, 4]) =
    (xs [(0x00, 1), (0x38, 2), (0x55, 3)], 0x0100000000000000, 0x16) := by decide
/-- L2.1, fourth row. -/
theorem test_wrreg_out_of_range : seen 0x0000000000014001 (ready .unknown []) = ([], 0x0100000000000001, 0x16) := by decide
/-- L2.1, `RDREG 0x3F, 3`. -/
theorem test_rdreg_three_bytes : seen 0x0000000000033F02 (ready .unknown [9, 9, 0x01, 0x02, 0x03]) =
    (xs [(0x00, 9), (0x7F, 9), (0x00, 0x01), (0x00, 0x02), (0x00, 0x03)], 0x0200000302010000, 0x16) := by decide
/-- L2.8 and P5: an access before INIT is emitted and recorded. -/
theorem test_rdreg_before_init : seen 0x0000000000020702 { State.reset with rxIn := [0, 0, 0x30, 0xD8] } =
    (xs [(0x00, 0), (0x47, 0), (0x00, 0x30), (0x00, 0xD8)], 0x02000000D8300000, 0x6E) := by decide
/-- L2.1, `RESET` in CR. -/
theorem test_reset : seenSent 0x3 (ready .cr (List.replicate 16 7)) =
    (List.replicate 16 0xFF, 0x0300000000000000, 0x16) := by decide
/-- L2.1, `RESYNC` in SC. -/
theorem test_resync : seen 0x4 (ready .sc []) = ([.cs true, .wait 1, .cs false], 0x0400000000000000, 0x12) := by decide
/-- L2.2, `SETCH 0x18, 1`: the truncated input pair. -/
theorem test_setch_truncates : seenSent 0x0001000000001805 (ready .unknown [0, 0, 0x7F, 0xAA, 0, 0, 0, 0]) =
    ([0x00, 0x58, 0x00, 0x00, 0x00, 0x18, 0xFF, 0x09], 0x0500000000000000, 0x16) := by decide
/-- L2.2, `SETCH 0x1F, 0`. -/
theorem test_setch_disables : seenSent 0x0000000000001F05 (ready .unknown [0, 0, 0x83, 0x55, 0, 0, 0, 0]) =
    ([0x00, 0x5F, 0x00, 0x00, 0x00, 0x1F, 0x03, 0xF0], 0x0500000000000000, 0x16) := by decide
/-- L2.3, `SETMODE SC` from CR, registers all ones. -/
theorem test_setmode_sc :
    seenSent 0x0000000000000106 (ready .cr [0, 0, 0xFF, 0xFF, 0, 0, 0, 0, 0, 0, 0xFF, 0xFF, 0, 0, 0, 0]) =
    ([0x00, 0x42, 0x00, 0x00, 0x00, 0x02, 0xFF, 0xF7, 0x00, 0x41, 0x00, 0x00, 0x00, 0x01, 0xFF, 0x9F],
      0x0600000000000000, 0x12) := by decide
/-- L2.3, `SETMODE CR` from UNKNOWN. -/
theorem test_setmode_cr :
    seenSent 0x0000000000000206 (ready .unknown
      ([0, 0, 0x12, 0x34, 0, 0, 0, 0] ++ [0, 0, 0x12, 0x34, 0, 0, 0, 0] ++
       [0, 0, 0x80, 0x7F, 0, 0, 0, 0] ++ [0, 0, 0x12, 0x34, 0, 0, 0, 0])) =
    ([0x00, 0x42, 0x00, 0x00, 0x00, 0x02, 0x12, 0x34] ++ [0x00, 0x42, 0x00, 0x00, 0x00, 0x02, 0x12, 0x34] ++
     [0x00, 0x41, 0x00, 0x00, 0x00, 0x01, 0x80, 0x0F] ++ [0x00, 0x42, 0x00, 0x00, 0x00, 0x02, 0x12, 0x3C],
      0x0600000000000000, 0x14) := by decide
/-- L2.4, first row. -/
theorem test_rdsample_cc : seen 0x7 (ready .cc [5, 6, 0x7F, 0x03, 0x99]) =
    (xs [(0x00, 5), (0x44, 6), (0x00, 0x7F), (0x00, 0x03), (0x00, 0x99)], 0x07FFFE99037F0000, 0x10) := by decide
/-- L2.4, third row. -/
theorem test_rdsample_cr : seen 0x7 (ready .cr [0xFF, 0xFF, 0xFF]) =
    (xs [(0x00, 0xFF), (0x00, 0xFF), (0x00, 0xFF)], 0x0703FEFFFFFF0000, 0x14) := by decide
/-- L2.4, `SETRATE 0x0A` under WORD13. -/
theorem test_setrate_word13 : seenSent 0x0000000000000A08 (ready .unknown [0, 0, 0x85, 0x37, 0, 0, 0, 0]) =
    ([0x00, 0x68, 0x00, 0x00, 0x00, 0x28, 0x80, 0x0A], 0x0800000000000000, 0x16) := by decide
/-- L2.4, `SETRATE 0x0A` under BYTE5. -/
theorem test_setrate_byte5 :
    seenSent 0x0000000000000A08
      { ready .unknown [0, 0, 0x85, 0x37, 0, 0, 0, 0] with cfg := { Config.default with ratePacking := .byte5 } } =
    ([0x00, 0x68, 0x00, 0x00, 0x00, 0x28, 0x85, 0x2A], 0x0800000000000000, 0x16) := by decide
/-- L2.5, `TOSIGNED 0x40, 0x02, 0x00`. -/
theorem test_tosigned : seen 0x0000000240000009 (ready .unknown []) = ([], 0x09FE040000000000, 0x16) := by decide
/-- L2.5, `TOSIGNED 0xFF, 0xFC, 0x00`. -/
theorem test_tosigned_ignores_high_bits : seen 0x000000FCFF000009 (ready .unknown []) = ([], 0x0903F80000000000, 0x16) := by
  decide
/-- L1.7, identity `30 D5`, from the engine reset. -/
theorem test_init_valid : seen 0xA { State.reset with rxIn := [0, 0, 0x30, 0xD5] } =
    ([.cfg, .cs true, .wait 1, .cs false] ++ xs [(0x00, 0), (0x47, 0), (0x00, 0x30), (0x00, 0xD5)],
      0x0A000000D5300100, 0x16) := by decide
/-- L1.7, identity `30 C5`. -/
theorem test_init_invalid : (seen 0xA { State.reset with rxIn := [0, 0, 0x30, 0xC5] }).2 = (0x0A000000C5300000, 0x16) := by
  decide
/-- L2.4, `RDY_N = 0`. -/
theorem test_rdyq_ready : seen 0xB { ready .unknown [] with rdyIn := [false] } = ([.rdy false], 0x0B00000000000100, 0x16) := by
  decide
/-- L2.4, `RDY_N = 1`. -/
theorem test_rdyq_not_ready : seen 0xB { ready .unknown [] with rdyIn := [true] } = ([.rdy true], 0x0B00000000000000, 0x16) := by
  decide
/-- L2.8, overrun: the second word is discarded. -/
theorem test_overrun :
    let t := stepped { running 0x4 .unknown [] with hostIn := [.write 0x3] }
    (t.cmd, t.busy, statWord t) = (0x4#64, true, 0x97#32) := by decide

/-- P5, step 1, as a run from reset: the host writes the word, the engine runs it, a read and an engine reset come after the
run's end (R104), and the violations stand at that end. -/
theorem test_run_ends_before_a_later_reset :
    let s : State :=
      { State.reset with rxIn := [0, 0, 0x30, 0xD8], hostIn := [.write 0x0000000000020702, .idle, .readResp, .reset 0] }
    (endOfRun s).map (fun t => (t.hostIn, statWord t)) = some ([.readResp, .reset 0], 0x6E#32) ∧
    runInContract s = false ∧ runEnded State.reset = true ∧ runEnded s = false := by decide

/-! ## A concrete case that meets the hypotheses of each statement -/

/-- The byte of a transparent register after a command: what the next read of it returns is what was sent last. -/
def echo (l : List Byte) : List Byte := [0, 0] ++ l ++ [0, 0, 0, 0]

theorem test_witness_EncodeOfDecodedWordIsTheWord :
    decode 0x0000776655033801#64 = some (.wrreg 0x38 3 0x55 0x66 0x77) := by decide

theorem test_witness_DecodeAgreesWithOpcodeRows :
    (⟨"RDREG", 0x2#64, 0xFFFFFFFFFFFC00FF#64⟩ : OpcodeRow) ∈ opcodeRows ∧
    (⟨"RDREG", 0x2#64, 0xFFFFFFFFFFFC00FF#64⟩ : OpcodeRow).accepts 0x0000000000033F02#64 = true ∧
    (⟨"RDREG", 0x2#64, 0xFFFFFFFFFFFC00FF#64⟩ : OpcodeRow).accepts 0x0000000000043F02#64 = false := by decide

theorem test_witness_OpcodeRowsAreDisjointAndComplete :
    (⟨"SETCH", 0x5#64, 0xFFFEFFFFFFFF00FF#64⟩ : OpcodeRow) ∈ opcodeRows ∧
    (⟨"SETCH", 0x5#64, 0xFFFEFFFFFFFF00FF#64⟩ : OpcodeRow).accepts 0x000100000000FF05#64 = true ∧
    (∀ row ∈ opcodeRows, row.accepts 0x0002000000000005#64 = false) ∧ decode 0x0002000000000005#64 = none := by decide

/-- Each way to be illegal at its boundary: OP 0x0, OP 0xC, OP 0xF, the lowest and the highest reserved bit. -/
theorem test_witness_ReservedOpsAndBitsDoNotDecode :
    (opField 0x0#64).toNat = 0 ∧ 0xC ≤ (opField 0xC#64).toNat ∧ 0xC ≤ (opField 0xF#64).toNat ∧
    (opField 0xB#64).toNat < 0xC ∧
    0x0000000000000013#64 &&& 0xFFFE000000FC00F0#64 ≠ 0#64 ∧ 0x8000000000000003#64 &&& 0xFFFE000000FC00F0#64 ≠ 0#64 := by
  decide

theorem test_witness_AssembledLineDecodesToItsCommand :
    AsmLine.assemble? Config.default (.wr8 0x3F 0xFF) = some 0x00000000FF013F01#64 := by decide

/-- For WRREG operands at their bounds, the fewest operands, and one operand too large; for SETCH likewise. -/
theorem test_witness_AssembledOperandsArriveUnchanged :
    AsmLine.assemble? Config.default (.cmd (.wrreg 0xFF 3 0xFF (some 0xFF) (some 0xFF))) = some 0x0000FFFFFF03FF01#64 ∧
    AsmLine.assemble? Config.default (.cmd (.wrreg 0 0 0 none none)) = some 0x1#64 ∧
    AsmLine.assemble? Config.default (.cmd (.wrreg 0x100 0 0 none none)) = none ∧
    AsmLine.assemble? Config.default (.cmd (.setch 0xFF 1)) = some 0x000100000000FF05#64 ∧
    AsmLine.assemble? Config.default (.cmd (.setch 0xFF 2)) = none := by decide

/-- The largest and the smallest address, each with a boundary length. -/
theorem test_witness_WrregEmitsOneWriteTransaction :
    ((0x3F#8).toNat ≤ 0x3F ∧ 3#2 ≠ 0#2 ∧ Running (.wrreg 0x3F 3 1 2 3) (running 0x0000030201033F01 .cc [])) ∧
    ((0x00#8).toNat ≤ 0x3F ∧ 1#2 ≠ 0#2 ∧ Running (.wrreg 0x00 1 1 0 0) (running 0x0000000001010001 .unknown [7, 8])) := by
  unfold Running; decide

theorem test_witness_RdregReturnsTheReceivedBytes :
    ((0x3F#8).toNat ≤ 0x3F ∧ 3#2 ≠ 0#2 ∧ Running (.rdreg 0x3F 3) (running 0x0000000000033F02 .cc [1, 2, 3, 4, 5])) ∧
    ((0x00#8).toNat ≤ 0x3F ∧ 1#2 ≠ 0#2 ∧ Running (.rdreg 0x00 1) (running 0x0000000000010002 .unknown [])) := by
  unfold Running; decide

/-- For each command the first refused address, and a length of 0 at an address in range. -/
theorem test_witness_RegisterAccessOutOfRangeIsRefused :
    (0x3F < (0x40#8).toNat ∧ Running (.wrreg 0x40 1 0 0 0) (running 0x0000000000014001 .cc [])) ∧
    ((0x00#2) = 0#2 ∧ Running (.wrreg 0x3F 0 0 0 0) (running 0x0000000000003F01 .cc [])) ∧
    (0x3F < (0x40#8).toNat ∧ Running (.rdreg 0x40 2) (running 0x0000000000024002 .cc [])) ∧
    ((0x00#2) = 0#2 ∧ Running (.rdreg 0x07 0) (running 0x0000000000000702 .cc [])) := by
  unfold Running; decide

theorem test_witness_WriteThenReadRoundTrips :
    let s := running 0x0000776655033801 .cc [0, 0, 0, 0, 0, 0, 0, 0x55, 0x66, 0x77]
    let t := after (.wrreg 0x38 3 0x55 0x66 0x77) s
    let v := later t 0x0000000000033802 true [] []
    let u := after (.rdreg 0x38 3) v
    (0x38#8).toNat ≤ 0x3F ∧ (3#2 ≠ 0#2) ∧ next? (exec (.wrreg 0x38 3 0x55 0x66 0x77) s) = some t ∧
    next? (exec (.rdreg 0x38 3) v) = some u ∧ u.trace = t.trace ++ u.trace.drop t.trace.length ∧
    (heard (u.trace.drop t.trace.length)).drop 2 = (sent (t.trace.drop s.trace.length)).drop 2 := by decide

theorem test_witness_ResetEmitsThePatternAndForgetsTheMode : Running .reset (running 0x3 .cr []) := by
  unfold Running; decide

theorem test_witness_ResyncTogglesTheChipSelect : Running .resync (running 0x4 .sc []) := by unfold Running; decide

theorem test_witness_ResyncGapLastsAtLeastOneTimeUnit :
    let s := running 0x4 .sc []
    let u := running 0xA .unknown [0, 0, 0x30, 0xD0]
    (next? (exec .resync s) = some (after .resync s) ∧
      (after .resync s).trace = s.trace ++ [.cs true, .wait 1, .cs false]) ∧
    (next? (exec .init u) = some (after .init u) ∧
      (after .init u).trace = u.trace ++ (after .init u).trace.drop u.trace.length) := by decide

theorem test_witness_SetchRewritesTheChannelRegister :
    (0x10 ≤ (0x10#8).toNat ∧ (0x10#8).toNat ≤ 0x1F ∧ Running (.setch 0x10 1) (running 0x0001000000001005 .cc [])) ∧
    (0x10 ≤ (0x1F#8).toNat ∧ (0x1F#8).toNat ≤ 0x1F ∧ Running (.setch 0x1F 0) (running 0x0000000000001F05 .cc [])) := by
  unfold Running; decide

theorem test_witness_SetchOutOfRangeIsRefused :
    ((0x0F#8).toNat < 0x10 ∧ Running (.setch 0x0F 1) (running 0x0001000000000F05 .cc [])) ∧
    (0x1F < (0x20#8).toNat ∧ Running (.setch 0x20 0) (running 0x0000000000002005 .cc [])) := by
  unfold Running; decide

theorem test_witness_EnableThenDisableDiffersInOneBit :
    let s := running 0x0001000000001005 .cc (echo [0x12, 0x34] ++ echo [0x92, 0x01])
    let t := after (.setch 0x10 1) s
    let v := later t 0x0000000000001005 true [] []
    let u := after (.setch 0x10 0) v
    0x10 ≤ (0x10#8).toNat ∧ (0x10#8).toNat ≤ 0x1F ∧
    next? (exec (.setch 0x10 1) s) = some t ∧ next? (exec (.setch 0x10 0) v) = some u ∧
    t.trace = s.trace ++ t.trace.drop s.trace.length ∧ u.trace = t.trace ++ u.trace.drop t.trace.length ∧
    pairAt (heard (u.trace.drop t.trace.length)) 2 = pairAt (sent (t.trace.drop s.trace.length)) 6 := by decide

theorem test_witness_SetmodeContinuousConversion : Running (.setmode 0x00) (running 0x006 .sc []) := by
  unfold Running; decide

theorem test_witness_SetmodeSingleConversion : Running (.setmode 0x01) (running 0x106 .cr []) := by unfold Running; decide

theorem test_witness_SetmodeContinuousRead : Running (.setmode 0x02) (running 0x206 .unknown []) := by
  unfold Running; decide

theorem test_witness_SetmodeOtherTargetIsRefused :
    (0x02 < (0x03#8).toNat ∧ Running (.setmode 0x03) (running 0x306 .cc [])) ∧
    (0x02 < (0xFF#8).toNat ∧ Running (.setmode 0xFF) (running 0xFF06 .unknown [])) := by
  unfold Running; decide

/-- CC and SC, each twice on a transparent device. -/
theorem test_witness_SetmodeTwiceIsSetmodeOnce :
    (let s := running 0x006 .sc (echo [0x00, 0x08] ++ echo [0x20, 0x10] ++ (echo [0x00, 0x00] ++ echo [0x20, 0x00]))
     let t := after (.setmode 0x00) s
     let v := later t 0x006 true [] []
     let u := after (.setmode 0x00) v
     let e := t.trace.drop s.trace.length
     let f := u.trace.drop t.trace.length
     next? (exec (.setmode 0x00) s) = some t ∧ next? (exec (.setmode 0x00) v) = some u ∧
     t.trace = s.trace ++ e ∧ u.trace = t.trace ++ f ∧
     pairAt (heard f) 2 = pairAt (sent e) 6 ∧ pairAt (heard f) 10 = pairAt (sent e) 14) ∧
    (let s := running 0x106 .cr (echo [0xFF, 0xFF] ++ echo [0xFF, 0xFF] ++ (echo [0xFF, 0xF7] ++ echo [0xFF, 0x9F]))
     let t := after (.setmode 0x01) s
     let v := later t 0x106 true [] []
     let u := after (.setmode 0x01) v
     let e := t.trace.drop s.trace.length
     let f := u.trace.drop t.trace.length
     next? (exec (.setmode 0x01) s) = some t ∧ next? (exec (.setmode 0x01) v) = some u ∧
     t.trace = s.trace ++ e ∧ u.trace = t.trace ++ f ∧
     pairAt (heard f) 2 = pairAt (sent e) 6 ∧ pairAt (heard f) 10 = pairAt (sent e) 14) := by decide

theorem test_witness_SetmodeContinuousReadTwiceIsOnce :
    let s := running 0x206 .unknown
      (echo [0x12, 0x34] ++ echo [0x12, 0x34] ++ echo [0x80, 0x7F] ++ echo [0x12, 0x34] ++
       (echo [0x12, 0x3C] ++ echo [0x12, 0x34] ++ echo [0x80, 0x0F] ++ echo [0x12, 0x34]))
    let t := after (.setmode 0x02) s
    let v := later t 0x206 true [] []
    let u := after (.setmode 0x02) v
    let e := t.trace.drop s.trace.length
    let f := u.trace.drop t.trace.length
    next? (exec (.setmode 0x02) s) = some t ∧ next? (exec (.setmode 0x02) v) = some u ∧
    t.trace = s.trace ++ e ∧ u.trace = t.trace ++ f ∧
    pairAt (heard e) 10 = pairAt (sent e) 6 ∧ pairAt (heard e) 26 = pairAt (sent e) 14 ∧
    pairAt (heard f) 2 = pairAt (sent e) 30 ∧ pairAt (heard f) 10 = pairAt (sent f) 6 ∧
    pairAt (heard f) 18 = pairAt (sent e) 22 ∧ pairAt (heard f) 26 = pairAt (sent f) 14 := by decide

theorem test_witness_RdsampleAddressesTheDataRegister :
    ((running 0x7 .cc []).mode = .cc ∧ Running .rdsample (running 0x7 .cc [])) ∧
    ((running 0x7 .sc []).mode = .sc ∧ Running .rdsample (running 0x7 .sc [1, 2, 3, 4, 5])) := by
  unfold Running; decide

theorem test_witness_RdsampleInContinuousReadSendsNoAddress :
    (running 0x7 .cr []).mode = .cr ∧ Running .rdsample (running 0x7 .cr []) := by unfold Running; decide

theorem test_witness_RdsampleWithoutModeIsRefused :
    (running 0x7 .unknown []).mode = .unknown ∧ Running .rdsample (running 0x7 .unknown []) := by unfold Running; decide

theorem test_witness_SetrateWord13KeepsTheTopThreeBits :
    (running 0xFF08 .cc []).cfg.ratePacking = .word13 ∧ Running (.setrate 0xFF) (running 0xFF08 .cc []) := by
  unfold Running; decide

/-- `P_RATE_PACKING = BYTE5`. -/
def byte5 (s : State) : State := { s with cfg := { Config.default with ratePacking := .byte5 } }

theorem test_witness_SetrateByte5ReplacesFiveBits :
    (byte5 (running 0x1F08 .cc [])).cfg.ratePacking = .byte5 ∧ (0x1F#8).toNat ≤ 0x1F ∧
    Running (.setrate 0x1F) (byte5 (running 0x1F08 .cc [])) := by unfold Running; decide

theorem test_witness_SetrateByte5LargeCodeIsRefused :
    (byte5 (running 0x2008 .cc [])).cfg.ratePacking = .byte5 ∧ 0x1F < (0x20#8).toNat ∧
    Running (.setrate 0x20) (byte5 (running 0x2008 .cc [])) := by unfold Running; decide

theorem test_witness_TosignedAnswersTheSignedValue :
    Running (.tosigned 0x00 0xFF 0xFF) (running 0x0000FFFF00000009 .cc []) := by unfold Running; decide

theorem test_witness_RdyqSamplesTheLineOnce : Running .rdyq { running 0xB .cc [] with rdyIn := [false, true] } := by
  unfold Running; decide

theorem test_witness_InitReadsAndJudgesTheIdentity :
    Running .init { State.reset with cmd := 0xA, busy := true, rxIn := [0, 0, 0x30, 0xDF] } := by unfold Running; decide

theorem test_witness_StatusViewLayout :
    ({ running 0x4 .cc [] with hostIn := [.readStat] } : State).hostIn = .readStat :: [] := by decide

/-- The state with an idle turn next and a read of STAT after it. -/
def onIdle (s : State) : State := { s with hostIn := [.idle, .readStat] }

/-- One state for each status the table gives, on both kinds of the engine's turn; the code expected is the one answered. -/
theorem test_witness_EveryWordAnswersTheTableStatus :
    ([(0x0, 7#8), (0x14001, 1#8), (0x3F01, 1#8), (0x0F05, 1#8), (0x2005, 1#8), (0x306, 2#8), (0x7, 3#8), (0x4, 0#8)].all
      (fun p => [running p.1 .unknown [], onIdle (running p.1 .unknown [])].all fun s =>
        s.busy && decide (next? (step s) = some (stepped s)) && decide (respStatus (stepped s).resp = p.2)) = true) ∧
    (∀ w, EngineMoves (running w .unknown []) [] ∧ EngineMoves (onIdle (running w .unknown [])) [.readStat]) :=
  ⟨by decide, fun _ => ⟨.inl ⟨rfl, rfl⟩, .inr rfl⟩⟩

theorem test_witness_RefusedWordChangesOnlyTheResponse :
    let s := onIdle (running 0x7 .unknown [])
    s.busy = true ∧ EngineMoves s [.readStat] ∧ next? (step s) = some (stepped s) ∧ respStatus (stepped s).resp ≠ 0#8 := by
  unfold EngineMoves; decide

theorem test_witness_IllegalWordAnswersIllegalCmd :
    (let s := running 0x8000000000000003 .cc []
     s.busy = true ∧ EngineMoves s [] ∧ decode s.cmd = none) ∧
    (let s := onIdle (running 0x8000000000000003 .cc [])
     s.busy = true ∧ EngineMoves s [.readStat] ∧ decode s.cmd = none) := by
  unfold EngineMoves; decide

theorem test_witness_EveryCommandEndsWithOneResponse : Running (.setch 0x1F 1) (running 0x0001000000001F05 .cc []) := by
  unfold Running; decide

/-- A command that completes, one that is refused, and a step on an illegal word. -/
theorem test_witness_BusFramesHaveTheTableLengths :
    (let s := running 0x0001000000001F05 .cc (echo [1, 2])
     next? (exec (.setch 0x1F 1) s) = some (after (.setch 0x1F 1) s) ∧ respStatus (after (.setch 0x1F 1) s).resp = 0#8) ∧
    (let s := running 0x0001000000002005 .cc []
     next? (exec (.setch 0x20 1) s) = some (after (.setch 0x20 1) s) ∧
       respStatus (after (.setch 0x20 1) s).resp ≠ 0#8) ∧
    (let s := onIdle (running 0xC .cc [])
     s.busy = true ∧ EngineMoves s [.readStat] ∧ next? (step s) = some (stepped s) ∧
       respStatus (stepped s).resp ≠ 0#8) := by
  unfold EngineMoves; decide

theorem test_witness_StepRunsTheDecodedCommand :
    (Running .resync (running 0x4 .cc []) ∧ (running 0x4 .cc []).hostIn = []) ∧
    (Running .resync { running 0x4 .cc [] with hostIn := [.idle, .readStat] } ∧
      ({ running 0x4 .cc [] with hostIn := [.idle, .readStat] } : State).hostIn = .idle :: [.readStat]) := by
  unfold Running; decide

theorem test_witness_PlacedWordRunsOnTheNextStep : decode 0x0000000000000A08#64 = some (.setrate 0x0A) := by decide

theorem test_witness_HostWriteIsAcceptedOrOverruns :
    (let s : State := { ready .cc [] with hostIn := [.write 0x4] }
     s.hostIn = .write 0x4 :: [] ∧ s.busy = false) ∧
    (let s : State := { running 0x3 .cc [] with hostIn := [.write 0x4] }
     s.hostIn = .write 0x4 :: [] ∧ s.busy = true) := by decide

theorem test_witness_HostReadsAndIdlingChangeNothing :
    ({ ready .cc [] with hostIn := [.readStat] } : State).hostIn = .readStat :: [] ∧
    ({ ready .cc [] with hostIn := [.readResp] } : State).hostIn = .readResp :: [] ∧
    ((ready .cc []).hostIn = [] ∧ (ready .cc []).busy = false) ∧
    ((onIdle (ready .cc [])).hostIn = .idle :: [.readStat] ∧ (onIdle (ready .cc [])).busy = false) := by decide

theorem test_witness_EngineResetWhileIdle :
    let s : State := { ready .cr [1] with hostIn := [.reset 0] }
    s.hostIn = .reset 0 :: [] ∧ s.busy = false := by decide

/-- The reset before the first bus event, in the middle, and after the last one. -/
theorem test_witness_EngineResetAbandonsTheCommand :
    ∀ k ∈ [0, 3, 8], Running (.setch 0x10 1) { running 0x0001000000001005 .cc [] with hostIn := [.reset k] } ∧
      ({ running 0x0001000000001005 .cc [] with hostIn := [.reset k] } : State).hostIn = .reset k :: [] := by
  unfold Running; decide

theorem test_witness_StepAppendsAnsweredEvents :
    let s := { running 0x7 .cr [1, 2, 3] with rdyIn := [true] }
    next? (step s) = some (stepped s) := by decide

/-- By the engine reset, by RESET, by SETMODE. -/
theorem test_witness_ModeChangesOnlyBySetmodeAndResets :
    (let s : State := { ready .cr [] with hostIn := [.reset 0] }
     next? (step s) = some (stepped s) ∧ (stepped s).mode ≠ s.mode) ∧
    (let s := running 0x3 .cr (List.replicate 16 0)
     next? (step s) = some (stepped s) ∧ (stepped s).mode ≠ s.mode) ∧
    (let s := running 0x006 .cr (List.replicate 16 0)
     next? (step s) = some (stepped s) ∧ (stepped s).mode ≠ s.mode) := by decide

/-- INIT from reset changes both; RESYNC from reset changes the chip-select alone. -/
theorem test_witness_ChipSelectAndStartChangeOnlyByTheirCommands :
    (let s : State := { State.reset with cmd := 0xA, busy := true, rxIn := [0, 0, 0, 0] }
     next? (step s) = some (stepped s) ∧ s.hostIn = [] ∧ (stepped s).csN ≠ s.csN ∧ (stepped s).xcfg ≠ s.xcfg) ∧
    (let s : State := { State.reset with cmd := 0x4, busy := true }
     next? (step s) = some (stepped s) ∧ s.hostIn = [] ∧ (stepped s).csN ≠ s.csN) := by decide

theorem test_witness_OnlyRdsampleReadsTheMode :
    let s := running 0x0000000000030402 .cr [0, 0, 1, 2, 3]
    Instr.rdreg 0x04 3 ≠ .rdsample ∧ next? (exec (.rdreg 0x04 3) s) = some (after (.rdreg 0x04 3) s) := by decide

theorem test_witness_ViolationsNeverAlterACommand :
    let s := running 0x0000000000030402 .cr [0, 0, 1, 2, 3]
    next? (exec (.rdreg 0x04 3) s) = some (after (.rdreg 0x04 3) s) := by decide

theorem test_witness_ViolationsAreSticky :
    let s := { running 0x4 .cc [] with viol := ⟨true, true, true⟩ }
    next? (step s) = some (stepped s) ∧ s.hostIn = [] ∧ s.viol.unsync = true ∧ s.viol.nocfg = true ∧
      s.viol.overrun = true := by decide

theorem test_witness_ReadyBusStaysInContract :
    (let s := running 0x7 .cr [1, 2, 3]
     next? (step s) = some (stepped s) ∧ busReady s = true ∧ inContract s = true ∧ s.hostIn = []) ∧
    (let s := { ready .cr [] with hostIn := [.write 0x4] }
     next? (step s) = some (stepped s) ∧ busReady s = true ∧ inContract s = true ∧ s.hostIn = [.write 0x4] ∧
       s.busy = false) := by decide

/-- The ready state meets the invariant, and a command steps from it. -/
theorem test_witness_EveryStepKeepsTheInvariant :
    EngineInv (running 0x4 .cc []) ∧ next? (step (running 0x4 .cc [])) = some (stepped (running 0x4 .cc [])) :=
  ⟨⟨by unfold respLegal; decide, (fun _ h => nomatch h), fun _ => rfl, (fun _ h => nomatch h)⟩, by decide⟩

/-- The largest values accepted; and each bound exceeded by one. -/
theorem test_witness_ConfigurationOutOfRangeIsRefused :
    (Config.build? 0xFF 0x3F 0x3F 0x3F 0x3F 0x3F .byte5 1 .lsbFirst).isSome = true ∧
    Config.build? 0x100 0x3F 0x3F 0x3F 0x3F 0x3F .byte5 1 .lsbFirst = none ∧
    Config.build? 0xFF 0x3F 0x3F 0x3F 0x3F 0x40 .byte5 1 .lsbFirst = none ∧
    Config.build? 0xFF 0x3F 0x3F 0x3F 0x3F 0x3F .byte5 0 .lsbFirst = none := by decide

end Sys2Proof.Tests
end

section
/-! SUPPORT. The bits of a response word (R21): where each field lies, and that every word the engine answers is legal
(R77). -/

namespace Sys2Proof.Machine

/-- Bit `i` of a response word: it lies in the first field, from the low end up, that is wider than the offset of `i` in
it (R21). -/
theorem getLsbD_respWord (st : Status) (opc : BitVec 4) (f : RespFields) (i : Nat) :
    (respWord st opc f).getLsbD i =
      if i < 8 then (statusCode st).getLsbD i
      else if i - 8 < 1 then (BitVec.ofBool f.flag).getLsbD (i - 8)
      else if i - 9 < 7 then false
      else if i - 16 < 8 then f.d0.getLsbD (i - 16)
      else if i - 24 < 8 then f.d1.getLsbD (i - 24)
      else if i - 32 < 8 then f.d2.getLsbD (i - 32)
      else if i - 40 < 16 then f.value.getLsbD (i - 40)
      else if i - 56 < 4 then opc.getLsbD (i - 56)
      else false := by
  unfold respWord
  iterate 8 rw [BitVec.getLsbD_append]
  simp only [BitVec.getLsbD_zero, Nat.sub_sub, Nat.reduceAdd]

/-- Bits [59:56] hold OPC (R21). -/
@[simp] theorem respOpc_respWord (st : Status) (opc : BitVec 4) (f : RespFields) :
    respOpc (respWord st opc f) = opc := by
  ext i hi
  simp only [respOpc, ← BitVec.getLsbD_eq_getElem, BitVec.getLsbD_extractLsb', getLsbD_respWord]
  interval_cases i <;> simp

/-- No status and no field reaches the reserved bits [63:60] and [15:9] (R21). -/
theorem respWord_reserved (st : Status) (opc : BitVec 4) (f : RespFields) :
    respWord st opc f &&& 0xF00000000000FE00#64 = 0#64 := by
  ext i hi
  rw [← BitVec.getLsbD_eq_getElem, ← BitVec.getLsbD_eq_getElem, BitVec.getLsbD_and, getLsbD_respWord]
  interval_cases i <;> simp

/-- The codes of R77. -/
theorem statusCode_mem (st : Status) :
    statusCode st = 0#8 ∨ statusCode st = 1#8 ∨ statusCode st = 2#8 ∨ statusCode st = 3#8 ∨ statusCode st = 7#8 := by
  cases st <;> simp [statusCode]

theorem respLegal_respWord (st : Status) (opc : BitVec 4) (f : RespFields) : respLegal (respWord st opc f) :=
  ⟨respWord_reserved st opc f, by simpa using statusCode_mem st⟩

/-- RESP after the engine reset (R90) is a legal word. -/
theorem respLegal_zero : respLegal 0#64 := ⟨by decide, .inl (by decide)⟩

end Sys2Proof.Machine

namespace Sys2Proof.Claims

open Sys2Proof.Machine

/-- Settles O36, bit by bit within each field. -/
theorem responseWordLayout : Obligations.ResponseWordLayout := by
  intro st opc f
  refine ⟨respStatus_respWord st opc f, ?_, ?_, ?_, ?_, ?_, ?_, respOpc_respWord st opc f, ?_⟩
  all_goals
    ext i hi
    simp only [← BitVec.getLsbD_eq_getElem, BitVec.getLsbD_extractLsb', getLsbD_respWord]
    interval_cases i <;> simp

end Sys2Proof.Claims
end

section
/-! SUPPORT. What every command does to VIOL and to the waits of the bus trace, and how any word in CMD ends (R17, R21, R78,
R97): `exec_busWork` and `runCommand_cases` complete `exec_shape`. -/

namespace Sys2Proof.Machine

/-! ## VIOL and the waits -/

/-- From `s` to `t` VIOL was set by exchanges made with the levels of `s`, if at all (R17), and every new wait lasts
`P_GAP` (R61, R97). -/
structure BusWork (s t : State) : Prop where
  viol  : t.viol = s.viol ∨ t.viol = violOnExchange s.csN s.xcfg s.viol
  waits : ∀ n, .wait n ∈ t.trace → .wait n ∈ s.trace ∨ n = s.cfg.gap

theorem BusWork.refl (s : State) : BusWork s s := ⟨.inl rfl, fun _ => .inl⟩

/-- The end of a command adds nothing on the bus (R21). -/
theorem BusWork.finish {s u : State} (h : BusWork s u) (r : Word64) : BusWork s (finish r u) :=
  ⟨h.viol, h.waits⟩

/-- A refused command does nothing on the bus (R78). -/
theorem raiseStatus_busWork (st : Status) (s : State) : BusWork s (raiseStatus st s) :=
  (BusWork.refl s).finish _

theorem OnBus.busWork {s u : State} {evs : List BusEvent} {n : Nat} (h : OnBus s u evs n) : BusWork s u where
  viol := by rw [h.viol]; split <;> simp
  waits := by
    intro n hn
    rw [h.emits.trace, List.mem_append] at hn
    refine hn.imp_right fun he => ?_
    obtain ⟨out, inp, hx⟩ := h.only _ he
    cases hx

theorem xchgs_busWork (outs : List Byte) (s : State) : BusWork s (xchgs outs s).2 :=
  (xchgs_onBus outs s).elim fun _ h => h.busWork

theorem memWrite_busWork (a : RegAddr) (n : Nat) (b : List Byte) (s : State) : BusWork s (memWrite a n b s) :=
  (memWrite_onBus a n b s).elim fun _ h => h.busWork

theorem memRead_busWork (a : RegAddr) (n : Nat) (s : State) : BusWork s (memRead a n s).2 :=
  (memRead_onBus a n s).elim fun _ h => h.busWork

theorem modify2_busWork (a : RegAddr) (f0 f1 : Byte → Byte) (s : State) : BusWork s (modify2 a f0 f1 s) :=
  (modify2_onBus a f0 f1 s).elim fun _ h => h.busWork

theorem modeActions_busWork (m : ConvMode) (s : State) : BusWork s (modeActions m s) :=
  (modeActions_onBus m s).elim fun _ h => h.elim fun _ h => h.busWork

theorem readRdy_busWork (s : State) : BusWork s (readRdy s).2 := ⟨.inl rfl, by simp +contextual⟩

/-- The toggle makes one wait and no exchange (R61). -/
theorem resyncLine_busWork (s : State) : BusWork s (resyncLine s) := ⟨.inl rfl, by simp [resyncLine]⟩

/-- An exchange with the chip-select asserted and the transport started is no violation (R17, R93). -/
@[simp] theorem violOnExchange_ready (v : Viol) : violOnExchange false true v = v := by simp [violOnExchange]

/-- INIT exchanges bytes only after it has made the bus ready (R76). -/
theorem initRead_busWork (a : RegAddr) (n : Nat) (s : State) :
    BusWork s (memRead a n (resyncLine (xportBegin s))).2 := by
  have h := memRead_busWork a n (resyncLine (xportBegin s))
  refine ⟨.inl ?_, fun g hg => ?_⟩
  · simpa [resyncLine] using h.viol
  · simpa [resyncLine] using h.waits g hg

theorem exec_busWork (i : Instr) (s t : State) (h : exec i s = .next t) : BusWork s t := by
  cases i with
  | wrreg a len b0 b1 b2 =>
    simp only [exec, execWrreg] at h
    split at h <;> cases h
    · exact (memWrite_busWork ..).finish _
    · exact raiseStatus_busWork _ s
  | rdreg a len =>
    simp only [exec, execRdreg] at h
    split at h <;> cases h
    · exact (memRead_busWork ..).finish _
    · exact raiseStatus_busWork _ s
  | reset =>
    cases h
    exact ⟨(xchgs_busWork _ s).viol, (xchgs_busWork _ s).waits⟩
  | resync => cases h; exact (resyncLine_busWork s).finish _
  | setch a en =>
    simp only [exec, execSetch] at h
    split at h <;> cases h
    · exact (modify2_busWork ..).finish _
    · exact raiseStatus_busWork _ s
  | setmode a =>
    simp only [exec, execSetmode] at h
    split at h <;> cases h
    · exact ⟨(modeActions_busWork _ s).viol, (modeActions_busWork _ s).waits⟩
    · exact raiseStatus_busWork _ s
  | rdsample =>
    simp only [exec, execRdsample] at h
    split at h <;> cases h
    · exact raiseStatus_busWork _ s
    · exact (xchgs_busWork _ s).finish _
    · exact (memRead_busWork ..).finish _
    · exact (memRead_busWork ..).finish _
  | setrate a =>
    simp only [exec, execSetrate] at h
    split at h <;> cases h
    · exact (modify2_busWork ..).finish _
    · exact raiseStatus_busWork _ s
  | tosigned b0 b1 b2 => cases h; exact (BusWork.refl s).finish _
  | init => cases h; exact (initRead_busWork ..).finish _
  | rdyq => cases h; exact (readRdy_busWork s).finish _

/-! ## How the word in CMD ends -/

/-- The engine registers and the bus after the work of command `i`, which is still to respond: what `exec_shape` and
`exec_busWork` say of them. -/
structure Worked (i : Instr) (s u : State) : Prop where
  keeps : Keeps s u
  cfg   : u.cfg = s.cfg
  mode  : ModeAfter i s u
  csN   : u.csN = if i = .resync ∨ i = .init then false else s.csN
  xcfg  : u.xcfg = if i = .init then true else s.xcfg
  bus   : BusWork s u

/-- A command is refused before it did anything, or did its work and responds. -/
theorem exec_cases (i : Instr) (s : State) :
    (∃ st, exec i s = .next (raiseStatus st s)) ∨ ∃ f u, exec i s = .next (respond f u) ∧ Worked i s u := by
  obtain ⟨st, -, h⟩ | ⟨f, u, evs, h, hemits, hkeeps, hmode, hcsN, hxcfg⟩ := exec_shape i s
  · exact .inl ⟨st, h⟩
  · have hbus := exec_busWork i s _ h
    exact .inr ⟨f, u, h, hkeeps, hemits.cfg, hmode, hcsN, hxcfg, hbus.viol, hbus.waits⟩

/-- How the command word held in CMD ends: refused (ILLEGAL_CMD among the statuses), or as a command that completes. -/
inductive CommandEnd (s : State) : State → Prop
  | refused (st : Status) : CommandEnd s (raiseStatus st s)
  | completed {i : Instr} {u : State} (f : RespFields) (decodes : decode s.cmd = some i) (work : Worked i s u) :
      CommandEnd s (respond f u)

theorem runCommand_cases {s t : State} (h : runCommand s = .next t) : CommandEnd s t := by
  unfold runCommand at h
  split at h
  next i hi =>
    obtain ⟨st, he⟩ | ⟨f, u, he, hwork⟩ := exec_cases i s
    · cases he.symm.trans h; exact .refused st
    · cases he.symm.trans h; exact .completed f hi hwork
  next => cases h; exact .refused .illegalCmd

theorem CommandEnd.busWork {s t : State} (h : CommandEnd s t) : BusWork s t := by
  cases h with
  | refused st => exact raiseStatus_busWork st s
  | completed f _ hwork => exact hwork.bus.finish _

/-- Only RESET and SETMODE write MODE (R13). -/
theorem ModeAfter.eq_of_changed {i : Instr} {s u : State} (h : ModeAfter i s u) (hne : u.mode ≠ s.mode) :
    i = .reset ∨ ∃ a, i = .setmode a := by
  cases i with
  | reset => exact .inl rfl
  | setmode a => exact .inr ⟨a, rfl⟩
  | _ => exact absurd h hne

end Sys2Proof.Machine
end

section
/-! SUPPORT. What one step can do, said once (R12, R20, R22, R90): `step_cases`. -/

namespace Sys2Proof.Machine

/-- The ways a step leads from `s` to a next state. -/
inductive StepCase (s : State) : State → Prop
  /-- The engine's turn with no command: it holds its state. -/
  | idle {rest : List HostTurn} (turn : EngineMoves s rest) (free : s.busy = false) :
      StepCase s { s with hostIn := rest }
  /-- The engine's turn with a command: it runs to its end. -/
  | command {rest : List HostTurn} {t : State} (turn : EngineMoves s rest) (busy : s.busy = true)
      (run : runCommand { s with hostIn := rest } = .next t) : StepCase s t
  /-- The host's write to an idle engine is accepted. -/
  | accept {w : Word64} {ts : List HostTurn} (turn : s.hostIn = .write w :: ts) (free : s.busy = false) :
      StepCase s { s with hostIn := ts, cmd := w, busy := true }
  /-- The host's write with BUSY = 1 is discarded and recorded. -/
  | overrun {w : Word64} {ts : List HostTurn} (turn : s.hostIn = .write w :: ts) (busy : s.busy = true) :
      StepCase s { s with hostIn := ts, viol := { s.viol with overrun := true } }
  | readStat {ts : List HostTurn} (turn : s.hostIn = .readStat :: ts) : StepCase s (hostReadStat { s with hostIn := ts })
  | readResp {ts : List HostTurn} (turn : s.hostIn = .readResp :: ts) : StepCase s (hostReadResp { s with hostIn := ts })
  | resetIdle {k : Nat} {ts : List HostTurn} (turn : s.hostIn = .reset k :: ts) (free : s.busy = false) :
      StepCase s (engineReset { s with hostIn := ts })
  /-- The engine reset in the middle of the command that would have ended in `full`. -/
  | resetRunning {k : Nat} {ts : List HostTurn} {full : State} (turn : s.hostIn = .reset k :: ts) (busy : s.busy = true)
      (run : runCommand { s with hostIn := ts } = .next full) :
      StepCase s (abandon ((full.trace.drop s.trace.length).take k) { s with hostIn := ts })

theorem engineTurn_cases {s t : State} {rest : List HostTurn} (turn : EngineMoves s rest)
    (h : engineTurn { s with hostIn := rest } = .next t) : StepCase s t := by
  unfold engineTurn at h
  split at h
  next hb => exact .command turn hb h
  next hb => cases h; exact .idle turn (by simpa using hb)

theorem hostWrite_cases {s : State} {w : Word64} {ts : List HostTurn} (turn : s.hostIn = .write w :: ts) :
    StepCase s (hostWrite w { s with hostIn := ts }) := by
  unfold hostWrite
  split
  next hb => exact .overrun turn hb
  next hb => exact .accept turn (by simpa using hb)

theorem resetTurn_cases {s t : State} {k : Nat} {ts : List HostTurn} (turn : s.hostIn = .reset k :: ts)
    (h : resetTurn k { s with hostIn := ts } = .next t) : StepCase s t := by
  unfold resetTurn at h
  split at h
  next hb =>
    split at h
    next full hrun => cases h; exact .resetRunning turn hb hrun
    all_goals cases h
  next hb => cases h; exact .resetIdle turn (by simpa using hb)

theorem step_cases {s t : State} (h : step s = .next t) : StepCase s t := by
  unfold step turnStep at h
  split at h
  next hnil =>
    refine engineTurn_cases (rest := []) (.inl ⟨hnil, rfl⟩) ?_
    rwa [← hnil]
  next turn ts hturn =>
    cases turn with
    | write w => cases h; exact hostWrite_cases hturn
    | readStat => cases h; exact .readStat hturn
    | readResp => cases h; exact .readResp hturn
    | reset k => exact resetTurn_cases hturn h
    | idle => exact engineTurn_cases (.inr hturn) h

end Sys2Proof.Machine
end

section
/-! CLAIMS. The obligations about the engine's registers: the invariant, the end of a command, and which steps write MODE,
CS_N, XCFG and VIOL. Each is a case analysis of `step_cases`. -/

namespace Sys2Proof.Claims

open Sys2Proof.Machine

/-! ## The end of a command -/

/-- Settles O41, from the two ways a command ends (`exec_cases`). -/
theorem everyCommandEndsWithOneResponse : Obligations.EveryCommandEndsWithOneResponse := by
  intro i s ⟨_, hdecode⟩
  have hop := opField_of_decode hdecode
  obtain ⟨st, he⟩ | ⟨f, u, he, hwork⟩ := exec_cases i s
  · exact ⟨_, he, rfl, rfl, by simp [hop], rfl, rfl, rfl, rfl⟩
  · obtain ⟨hcmd, -, hresponses, hreads, hhostIn, -⟩ := hwork.keeps
    exact ⟨_, he, rfl, by simp [hresponses], by simp [hcmd, hop], hcmd, hreads, hhostIn, hwork.cfg⟩

/-! ## The invariant -/

/-- Settles O58, field by field: nothing is recorded yet and the transport is not started. -/
theorem invariantHoldsAtReset : Obligations.InvariantHoldsAtReset :=
  { respLegal := respLegal_zero
    responsesLegal := fun _ h => nomatch h
    startedMeansSelected := fun h => nomatch h
    waitsAreGaps := fun _ h => nomatch h }

/-- The invariant is about these six fields alone. -/
theorem engineInv_of_fields {s t : State} (hs : EngineInv s) (hcfg : t.cfg = s.cfg) (hcsN : t.csN = s.csN)
    (hxcfg : t.xcfg = s.xcfg) (hresp : t.resp = s.resp) (htrace : t.trace = s.trace)
    (hresponses : t.responses = s.responses) : EngineInv t where
  respLegal := by rw [hresp]; exact hs.respLegal
  responsesLegal := by rw [hresponses]; exact hs.responsesLegal
  startedMeansSelected := by rw [hxcfg, hcsN]; exact hs.startedMeansSelected
  waitsAreGaps := by rw [htrace, hcfg]; exact hs.waitsAreGaps

/-- Writing a response word keeps the invariant (R21). -/
theorem engineInv_finish {s : State} (hs : EngineInv s) (st : Status) (opc : BitVec 4) (f : RespFields) :
    EngineInv (finish (respWord st opc f) s) where
  respLegal := respLegal_respWord st opc f
  responsesLegal := by
    intro r hr
    rcases List.mem_append.1 hr with hr | hr
    · exact hs.responsesLegal r hr
    · rw [List.mem_singleton.1 hr]; exact respLegal_respWord st opc f
  startedMeansSelected := hs.startedMeansSelected
  waitsAreGaps := hs.waitsAreGaps

/-- The work of a command keeps the invariant: INIT, which alone starts the transport, asserts the chip-select too (R76). -/
theorem engineInv_of_worked {i : Instr} {s u : State} (hs : EngineInv s) (h : Worked i s u) : EngineInv u where
  respLegal := by rw [h.keeps.resp]; exact hs.respLegal
  responsesLegal := by rw [h.keeps.responses]; exact hs.responsesLegal
  startedMeansSelected := by
    rw [h.xcfg, h.csN]
    by_cases hi : i = .init
    · simp [hi]
    · simpa [hi] using fun hx _ => hs.startedMeansSelected hx
  waitsAreGaps := by
    intro n hn
    rw [h.cfg]
    exact (h.bus.waits n hn).elim (hs.waitsAreGaps n) id

theorem engineInv_of_commandEnd {s t : State} (hs : EngineInv s) (h : CommandEnd s t) : EngineInv t := by
  cases h with
  | refused st => exact engineInv_finish hs st _ _
  | completed f _ hwork => exact engineInv_finish (engineInv_of_worked hs hwork) .ok _ f

/-- The engine reset keeps the invariant when the events emitted before it hold no wait but `P_GAP` (R90). -/
theorem engineInv_abandon {s : State} {done : List BusEvent} (hs : EngineInv s)
    (hdone : ∀ n, .wait n ∈ done → n = s.cfg.gap) : EngineInv (abandon done s) where
  respLegal := respLegal_zero
  responsesLegal := hs.responsesLegal
  startedMeansSelected := fun h => nomatch h
  waitsAreGaps := fun n hn => (List.mem_append.1 hn).elim (hs.waitsAreGaps n) (hdone n)

/-- The reset of an idle engine cuts off no event. -/
theorem engineReset_eq_abandon (s : State) : engineReset s = abandon [] s := by simp [abandon]

/-- Settles O59, from what each kind of step does (`step_cases`). -/
theorem everyStepKeepsTheInvariant : Obligations.EveryStepKeepsTheInvariant := by
  intro s t hs h
  have hrest (ts : List HostTurn) : EngineInv { s with hostIn := ts } := engineInv_of_fields hs rfl rfl rfl rfl rfl rfl
  cases step_cases h with
  | idle | accept | overrun | readStat | readResp => exact engineInv_of_fields hs rfl rfl rfl rfl rfl rfl
  | command _ _ hrun => exact engineInv_of_commandEnd (hrest _) (runCommand_cases hrun)
  | resetIdle =>
    rw [engineReset_eq_abandon]
    exact engineInv_abandon (hrest _) (by simp)
  | resetRunning _ _ hrun =>
    refine engineInv_abandon (hrest _) fun n hn => ?_
    have hfull := List.mem_of_mem_drop (List.mem_of_mem_take hn)
    exact ((runCommand_cases hrun).busWork.waits n hfull).elim (hs.waitsAreGaps n) id

/-! ## Who writes MODE, CS_N, XCFG and VIOL -/

/-- Settles O52, from what each kind of step does to MODE. -/
theorem modeChangesOnlyBySetmodeAndResets : Obligations.ModeChangesOnlyBySetmodeAndResets := by
  intro s t h hne
  cases step_cases h with
  | idle | accept | overrun | readStat | readResp => exact absurd rfl hne
  | command _ hbusy hrun =>
    cases runCommand_cases hrun with
    | refused => exact absurd rfl hne
    | completed f hdecode hwork =>
      obtain rfl | ⟨a, rfl⟩ := hwork.mode.eq_of_changed hne
      · exact .inr (.inl ⟨hbusy, hdecode⟩)
      · exact .inr (.inr ⟨a, hbusy, hdecode⟩)
  | @resetIdle k ts hturn => exact .inl ⟨k, ts, hturn⟩
  | @resetRunning k ts _ hturn => exact .inl ⟨k, ts, hturn⟩

/-- Outside the engine reset, a step keeps CS_N and XCFG and sets at most VIOL.OVERRUN, which only a write of CMD with
BUSY = 1 does, or it ran a command (R15, R16, R17, R20). -/
theorem step_lines {s t : State} (h : step s = .next t) (hreset : ∀ k ts, s.hostIn ≠ .reset k :: ts) :
    (t.csN = s.csN ∧ t.xcfg = s.xcfg ∧
      (t.viol = s.viol ∨
        t.viol = { s.viol with overrun := true } ∧ s.busy = true ∧ ∃ w ts, s.hostIn = .write w :: ts)) ∨
    (s.busy = true ∧ ∃ rest, CommandEnd { s with hostIn := rest } t) := by
  cases step_cases h with
  | idle | accept | readStat | readResp => exact .inl ⟨rfl, rfl, .inl rfl⟩
  | @overrun w ts hturn hbusy => exact .inl ⟨rfl, rfl, .inr ⟨rfl, hbusy, w, ts, hturn⟩⟩
  | command _ hbusy hrun => exact .inr ⟨hbusy, _, runCommand_cases hrun⟩
  | resetIdle hturn => exact absurd hturn (hreset _ _)
  | resetRunning hturn => exact absurd hturn (hreset _ _)

/-- Settles O53: only a command that completes touches the lines, and `Worked` names it. -/
theorem chipSelectAndStartChangeOnlyByTheirCommands : Obligations.ChipSelectAndStartChangeOnlyByTheirCommands := by
  intro s t h hreset
  obtain ⟨hcsN, hxcfg, -⟩ | ⟨hbusy, rest, hend⟩ := step_lines h hreset
  · exact ⟨fun hne => absurd hcsN hne, fun hne => absurd hxcfg hne⟩
  cases hend with
  | refused => exact ⟨absurd rfl, absurd rfl⟩
  | @completed i u f hdecode hwork =>
    constructor
    · intro hne
      have hi : i = .resync ∨ i = .init := by
        by_contra hi
        exact hne (by simpa [hi] using hwork.csN)
      refine ⟨by simpa [hi] using hwork.csN, hi.imp ?_ ?_⟩ <;> rintro rfl <;> exact ⟨hbusy, hdecode⟩
    · intro hne
      have hi : i = .init := by
        by_contra hi
        exact hne (by simpa [hi] using hwork.xcfg)
      subst hi
      exact ⟨by simpa using hwork.xcfg, hbusy, hdecode⟩

/-- Settles O56: exchanges and overruns only set VIOL bits. -/
theorem violationsAreSticky : Obligations.ViolationsAreSticky := by
  intro s t h hreset
  obtain ⟨-, -, hviol | ⟨hviol, -⟩⟩ | ⟨-, rest, hend⟩ := step_lines h hreset
  · simp [hviol]
  · simp +contextual [hviol]
  · obtain hviol | hviol := hend.busWork.viol
    · simp [hviol]
    · simp +contextual [hviol, violOnExchange]

theorem busReady_iff {s : State} : busReady s = true ↔ s.csN = false ∧ s.xcfg = true := by simp [busReady]

theorem inContract_iff {s : State} : inContract s = true ↔ s.viol = Viol.none := by simp [inContract]

/-- No command leaves a ready bus (R61, R76). -/
theorem busReady_of_commandEnd {s t : State} (h : CommandEnd s t) (hs : busReady s = true) : busReady t = true := by
  cases h with
  | refused => exact hs
  | completed f _ hwork =>
    obtain ⟨hcsN, hxcfg⟩ := busReady_iff.1 hs
    exact busReady_iff.2 ⟨by simp [hwork.csN, hcsN], by simp [hwork.xcfg, hxcfg]⟩

/-- Settles O57: on a ready bus an exchange is no violation (`violOnExchange_ready`), and the premise shuts out overruns. -/
theorem readyBusStaysInContract : Obligations.ReadyBusStaysInContract := by
  intro s t h hready hcontract hreset hwrite
  obtain ⟨hcsN, hxcfg⟩ := busReady_iff.1 hready
  rw [inContract_iff] at hcontract ⊢
  obtain ⟨hc, hx, hviol | ⟨-, hbusy, w, ts, hturn⟩⟩ | ⟨-, rest, hend⟩ := step_lines h hreset
  · exact ⟨busReady_iff.2 ⟨hc.trans hcsN, hx.trans hxcfg⟩, hviol.trans hcontract⟩
  · simp [hwrite w ts hturn] at hbusy
  · refine ⟨busReady_of_commandEnd hend hready, ?_⟩
    simpa [hcsN, hxcfg, hcontract] using hend.busWork.viol

end Sys2Proof.Claims
end

section
/-! SUPPORT. What a transaction puts on the bus trace: the bytes its exchanges send and those they receive (R30, R31), and
WRREG and RDREG with operands in range as such transactions (R58, R59). -/

namespace Sys2Proof.Claims

open Sys2Proof.Machine

/-! ## The bytes of a run of exchanges -/

@[simp] theorem sent_eventsFrom (outs : List Byte) (r : Nat → Byte) (k : Nat) : sent (eventsFrom outs r k) = outs := by
  induction outs generalizing k with
  | nil => rfl
  | cons out outs ih => simp [sent, ih]

@[simp] theorem heard_eventsFrom (outs : List Byte) (r : Nat → Byte) (k : Nat) :
    heard (eventsFrom outs r k) = (List.range outs.length).map fun j => r (k + j) := by
  induction outs generalizing k with
  | nil => rfl
  | cons out outs ih =>
    simp [heard, ih, List.range_succ_eq_map, Function.comp_def, Nat.add_assoc, Nat.add_comm 1]

/-- Exchanges append to the trace events that carry the bytes sent and the bytes received (R8, R10). -/
theorem xchgs_sent_heard (outs : List Byte) (s : State) :
    ∃ evs, (xchgs outs s).2.trace = s.trace ++ evs ∧ sent evs = outs ∧ heard evs = (xchgs outs s).1 := by
  obtain ⟨r, -, hx⟩ := xchgs_spec outs s
  exact ⟨eventsFrom outs r 0, by rw [hx]; rfl, by simp, by simp [hx]⟩

/-- The bytes `MemWrite` sends (R30). -/
theorem memWrite_sent (a : RegAddr) (n : Nat) (b : List Byte) (s : State) :
    ∃ evs, (memWrite a n b s).trace = s.trace ++ evs ∧
      sent evs = s.cfg.frameByte :: writeCommand a :: b.take n := by
  obtain ⟨evs, htrace, hsent, -⟩ := xchgs_sent_heard (s.cfg.frameByte :: writeCommand a :: b.take n) s
  exact ⟨evs, htrace, hsent⟩

/-- `MemRead` returns what its exchanges received after the framing byte and the command byte (R31). -/
theorem memRead_heard (a : RegAddr) (n : Nat) (s : State) :
    ∃ evs, (memRead a n s).2.trace = s.trace ++ evs ∧ (memRead a n s).1 = (heard evs).drop 2 := by
  obtain ⟨evs, htrace, -, hheard⟩ :=
    xchgs_sent_heard (s.cfg.frameByte :: readCommand a :: List.replicate n 0x00#8) s
  exact ⟨evs, htrace, by rw [hheard]; rfl⟩

/-- The first bytes of a sequence are those of its beginning. -/
theorem byteAt_take {l : List Byte} {n i : Nat} (h : i < n) : byteAt (l.take n) i = byteAt l i := by
  simp [byteAt, List.getD_eq_getElem?_getD, List.getElem?_take_of_lt h]

/-! ## The data fields of a response (R21) -/

@[simp] theorem respD0_respWord (st : Status) (opc : BitVec 4) (f : RespFields) : respD0 (respWord st opc f) = f.d0 := by
  obtain ⟨-, -, -, hd0, -⟩ := responseWordLayout st opc f
  exact hd0

@[simp] theorem respD1_respWord (st : Status) (opc : BitVec 4) (f : RespFields) : respD1 (respWord st opc f) = f.d1 := by
  obtain ⟨-, -, -, -, hd1, -⟩ := responseWordLayout st opc f
  exact hd1

@[simp] theorem respD2_respWord (st : Status) (opc : BitVec 4) (f : RespFields) : respD2 (respWord st opc f) = f.d2 := by
  obtain ⟨-, -, -, -, -, hd2, -⟩ := responseWordLayout st opc f
  exact hd2

/-! ## WRREG and RDREG in range -/

/-- A length field other than 0 is a length of at least 1 (R35). -/
theorem len_pos {len : BitVec 2} (h : len ≠ 0#2) : 0 < len.toNat := by bv_omega

/-- The range check of R58 and R59. -/
theorem regAccess_inRange {a : Byte} {len : BitVec 2} (ha : a.toNat ≤ 0x3F) (hlen : len ≠ 0#2) :
    (addrInRange a && lenInRange len) = true := by
  have hpos := len_pos hlen
  simp only [addrInRange, lenInRange, Bool.and_eq_true, decide_eq_true_eq]
  omega

theorem exec_wrreg_inRange {a : Byte} {len : BitVec 2} (b0 b1 b2 : Byte) (s : State) (ha : a.toNat ≤ 0x3F)
    (hlen : len ≠ 0#2) :
    exec (.wrreg a len b0 b1 b2) s = .next (respond {} (memWrite (regAddr a) len.toNat [b0, b1, b2] s)) :=
  if_pos (regAccess_inRange ha hlen)

theorem exec_rdreg_inRange {a : Byte} {len : BitVec 2} (s : State) (ha : a.toNat ≤ 0x3F) (hlen : len ≠ 0#2) :
    exec (.rdreg a len) s = .next (respond
      { d0 := byteAt (memRead (regAddr a) len.toNat s).1 0
        d1 := if 2 ≤ len.toNat then byteAt (memRead (regAddr a) len.toNat s).1 1 else 0#8
        d2 := if len.toNat = 3 then byteAt (memRead (regAddr a) len.toNat s).1 2 else 0#8 }
      (memRead (regAddr a) len.toNat s).2) :=
  if_pos (regAccess_inRange ha hlen)

/-- The payload WRREG sends is the first `len` of its bytes (R30, R58). -/
theorem wrreg_sends_payload {a : Byte} {len : BitVec 2} {b0 b1 b2 : Byte} {s t : State} (ha : a.toNat ≤ 0x3F)
    (hlen : len ≠ 0#2) (h : exec (.wrreg a len b0 b1 b2) s = .next t) :
    (sent (t.trace.drop s.trace.length)).drop 2 = [b0, b1, b2].take len.toNat := by
  rw [exec_wrreg_inRange b0 b1 b2 s ha hlen] at h
  cases h
  obtain ⟨evs, htrace, hsent⟩ := memWrite_sent (regAddr a) len.toNat [b0, b1, b2] s
  simp [htrace, hsent]

/-- The data fields of the response to RDREG are the payload it received, as far as `len` reaches (R31, R59). -/
theorem rdreg_answers_payload {a : Byte} {len : BitVec 2} {s u : State} {e : List BusEvent} (ha : a.toNat ≤ 0x3F)
    (hlen : len ≠ 0#2) (h : exec (.rdreg a len) s = .next u) (htrace : u.trace = s.trace ++ e) :
    respD0 u.resp = byteAt ((heard e).drop 2) 0 ∧
      (2 ≤ len.toNat → respD1 u.resp = byteAt ((heard e).drop 2) 1) ∧
      (len.toNat = 3 → respD2 u.resp = byteAt ((heard e).drop 2) 2) := by
  rw [exec_rdreg_inRange s ha hlen] at h
  cases h
  obtain ⟨evs, hevs, hread⟩ := memRead_heard (regAddr a) len.toNat s
  obtain rfl : evs = e := List.append_cancel_left (hevs.symm.trans htrace)
  rw [respond_resp, ← hread, respD0_respWord, respD1_respWord, respD2_respWord]
  exact ⟨rfl, fun h => if_pos h, fun h => if_pos h⟩

end Sys2Proof.Claims
end

section
/-! CLAIMS. The obligation about a register written and read back (L1.3). -/

namespace Sys2Proof.Claims

open Sys2Proof.Machine

/-- Settles O12: the payload RDREG answers is the payload WRREG sent, which is the first `len` bytes of its operands. -/
theorem writeThenReadRoundTrips : Obligations.WriteThenReadRoundTrips := by
  intro a len b0 b1 b2 s t u e w b ts rs ha hlen hwrite hread htrace hecho
  have hpos := len_pos hlen
  obtain ⟨h0, h1, h2⟩ := rdreg_answers_payload ha hlen hread htrace
  rw [hecho, wrreg_sends_payload ha hlen hwrite] at h0 h1 h2
  refine ⟨?_, fun h => ?_, fun h => ?_⟩
  · rw [h0, byteAt_take hpos]; rfl
  · rw [h1 h, byteAt_take (by omega)]; rfl
  · rw [h2 h, byteAt_take (by omega)]; rfl

end Sys2Proof.Claims
end

section
/-! SUPPORT. The decoder and the rows of the opcode table say the same thing (R41, R42, R43): a word decodes when nothing but
its OP stands outside the fields of its operation (`FieldsOnly`) and its OP names an operation. -/

namespace Sys2Proof

/-! ## Which words decode -/

/-- Outside the fields its operation uses the word holds its OP and nothing else (R43). -/
def FieldsOnly (w : Word64) : Prop := w &&& ~~~ fieldMask (opField w) = (opField w).setWidth 64

theorem decode_eq_some_iff {w : Word64} {i : Instr} : decode w = some i ↔ FieldsOnly w ∧ operation? w = some i := by
  simp [decode, FieldsOnly]

theorem decode_eq_none_iff {w : Word64} : decode w = none ↔ (FieldsOnly w → operation? w = none) := by
  simp [decode, FieldsOnly]

/-- The illegal OP values (R55). -/
theorem operation?_eq_none_iff {w : Word64} :
    operation? w = none ↔ (opField w).toNat = 0 ∨ 0xC ≤ (opField w).toNat := by
  have hlt := (opField w).isLt
  unfold operation?
  generalize (opField w).toNat = op at hlt ⊢
  interval_cases op <;> simp

/-! ## The fields an operation does not use -/

/-- Above OP, what the field mask leaves out is 0. -/
theorem unusedField {w : Word64} (hw : FieldsOnly w) (start len : Nat) (hstart : 4 ≤ start)
    (hmask : (~~~ fieldMask (opField w)).extractLsb' start len = BitVec.allOnes len) :
    w.extractLsb' start len = 0#len := by
  rw [extractLsb'_of_masked hw start len hmask]
  ext i hi
  rw [BitVec.getElem_extractLsb', BitVec.getLsbD_setWidth, BitVec.getLsbD_of_ge _ _ (by omega)]
  simp

section Unused

variable {w : Word64} (hw : FieldsOnly w)
include hw

theorem aField_unused (h : fieldMask (opField w) &&& aMask = 0#64) : aField w = 0#8 := by
  have hmask : ∀ op, fieldMask op &&& aMask = 0#64 → (~~~ fieldMask op).extractLsb' 8 8 = BitVec.allOnes 8 := by decide
  exact unusedField hw 8 8 (by decide) (hmask _ h)

theorem lenField_unused (h : fieldMask (opField w) &&& lenMask = 0#64) : lenField w = 0#2 := by
  have hmask : ∀ op, fieldMask op &&& lenMask = 0#64 → (~~~ fieldMask op).extractLsb' 16 2 = BitVec.allOnes 2 := by decide
  exact unusedField hw 16 2 (by decide) (hmask _ h)

theorem bytes_unused (h : fieldMask (opField w) &&& bytesMask = 0#64) :
    b0Field w = 0#8 ∧ b1Field w = 0#8 ∧ b2Field w = 0#8 := by
  have hmask : ∀ op, fieldMask op &&& bytesMask = 0#64 →
      (~~~ fieldMask op).extractLsb' 24 8 = BitVec.allOnes 8 ∧ (~~~ fieldMask op).extractLsb' 32 8 = BitVec.allOnes 8 ∧
        (~~~ fieldMask op).extractLsb' 40 8 = BitVec.allOnes 8 := by decide
  obtain ⟨h0, h1, h2⟩ := hmask _ h
  exact ⟨unusedField hw 24 8 (by decide) h0, unusedField hw 32 8 (by decide) h1, unusedField hw 40 8 (by decide) h2⟩

theorem enField_unused (h : fieldMask (opField w) &&& enMask = 0#64) : enField w = 0#1 := by
  have hmask : ∀ op, fieldMask op &&& enMask = 0#64 → (~~~ fieldMask op).extractLsb' 48 1 = BitVec.allOnes 1 := by decide
  exact unusedField hw 48 1 (by decide) (hmask _ h)

end Unused

/-! ## The rows of the opcode table -/

@[simp] theorem opField_setWidth (op : BitVec 4) : opField (op.setWidth 64) = op := by
  revert op
  decide

/-- A row's match is an OP value, its mask is what the operation's fields leave over, and the mask covers OP (R43). -/
theorem opcodeRow_shape : ∀ row ∈ opcodeRows, ∃ op : BitVec 4,
    row.matchBits = op.setWidth 64 ∧ row.mask = ~~~ fieldMask op ∧ row.mask.extractLsb' 0 4 = BitVec.allOnes 4 := by
  decide

/-- A row accepts the words that hold nothing outside the fields of its operation and have its OP (R43). -/
theorem accepts_iff {row : OpcodeRow} (hrow : row ∈ opcodeRows) (w : Word64) :
    row.accepts w = true ↔ FieldsOnly w ∧ (opField w).setWidth 64 = row.matchBits := by
  obtain ⟨op, hmatch, hmask, hcovers⟩ := opcodeRow_shape row hrow
  simp only [OpcodeRow.accepts, beq_iff_eq]
  constructor
  · intro h
    have hop : opField w = op := by
      calc opField w = opField row.matchBits := extractLsb'_of_masked h 0 4 hcovers
        _ = op := by rw [hmatch, opField_setWidth]
    refine ⟨?_, by rw [hop, hmatch]⟩
    rwa [FieldsOnly, hop, ← hmatch, ← hmask]
  · rintro ⟨hw, hop⟩
    have hop' : opField w = op := by
      simpa [hmatch] using congrArg opField hop
    rwa [hmask, ← hop', ← hop]

/-- Each row's OP names an operation (R42, R43). -/
theorem operation?_ne_none_of_row {row : OpcodeRow} (hrow : row ∈ opcodeRows) {w : Word64}
    (h : (opField w).setWidth 64 = row.matchBits) : operation? w ≠ none := by
  have hlegal : ∀ row ∈ opcodeRows, ∀ op : BitVec 4, op.setWidth 64 = row.matchBits →
      ¬ (op.toNat = 0 ∨ 0xC ≤ op.toNat) := by decide
  exact mt operation?_eq_none_iff.1 (hlegal row hrow _ h)

/-- Commands and rows are paired by mnemonic as by OP (R42). -/
theorem mnemonic_eq_iff {row : OpcodeRow} (hrow : row ∈ opcodeRows) (i : Instr) :
    mnemonic i = row.mnemonic ↔ (opcode i).setWidth 64 = row.matchBits := by
  revert row
  cases i <;> simp only [mnemonic, opcode] <;> decide

/-! ## Decoding what was encoded -/

theorem rowMatch : ∀ i : Instr, Laws.RowMatch.Statement i
  | .wrreg a len b0 b1 b2 => Laws.RowMatch.wrreg a len b0 b1 b2
  | .rdreg a len => Laws.RowMatch.rdreg a len
  | .reset => Laws.RowMatch.reset
  | .resync => Laws.RowMatch.resync
  | .setch a en => Laws.RowMatch.setch a en
  | .setmode a => Laws.RowMatch.setmode a
  | .rdsample => Laws.RowMatch.rdsample
  | .setrate a => Laws.RowMatch.setrate a
  | .tosigned b0 b1 b2 => Laws.RowMatch.tosigned b0 b1 b2
  | .init => Laws.RowMatch.init
  | .rdyq => Laws.RowMatch.rdyq

/-- The row of a command accepts its word, so the word holds nothing outside the command's fields. -/
theorem fieldsOnly_encode (i : Instr) : FieldsOnly (encode i) := by
  obtain ⟨row, hrow, -, haccepts⟩ := rowMatch i
  exact ((accepts_iff hrow _).1 haccepts).1

/-- The operands are read back from the fields they were packed into (R44, R56). -/
theorem operation?_encode (i : Instr) : operation? (encode i) = some i := by
  cases i <;> simp [encode, operation?]

@[simp] theorem decode_encode (i : Instr) : decode (encode i) = some i :=
  decode_eq_some_iff.2 ⟨fieldsOnly_encode i, operation?_encode i⟩

/-! ## Encoding what was decoded -/

/-- A word that decodes is packed from its operation's fields, the unused ones being 0. -/
theorem encode_of_decode {w : Word64} {i : Instr} (h : decode w = some i) : encode i = w := by
  have hop := opField_of_decode h
  obtain ⟨hw, hi⟩ := decode_eq_some_iff.1 h
  have hpack := packWord_fields w (reserved_of_masked hw)
  have hA := aField_unused hw
  have hLen := lenField_unused hw
  have hBytes := bytes_unused hw
  have hEn := enField_unused hw
  -- case `h_k` is the arm of `operation?` for OP `k`
  unfold operation? at hi
  split at hi <;> cases hi <;> simp only [opcode] at hop <;> rw [hop] at hpack hA hLen hBytes hEn
  case h_1 => rwa [hEn (by decide)] at hpack
  case h_2 =>
    obtain ⟨h0, h1, h2⟩ := hBytes (by decide)
    rwa [h0, h1, h2, hEn (by decide)] at hpack
  case h_5 =>
    obtain ⟨h0, h1, h2⟩ := hBytes (by decide)
    rwa [hLen (by decide), h0, h1, h2] at hpack
  case h_6 | h_8 =>
    obtain ⟨h0, h1, h2⟩ := hBytes (by decide)
    rwa [hLen (by decide), h0, h1, h2, hEn (by decide)] at hpack
  case h_9 => rwa [hA (by decide), hLen (by decide), hEn (by decide)] at hpack
  case h_3 | h_4 | h_7 | h_10 | h_11 =>
    obtain ⟨h0, h1, h2⟩ := hBytes (by decide)
    rwa [hA (by decide), hLen (by decide), h0, h1, h2, hEn (by decide)] at hpack

end Sys2Proof
end

section
/-! CLAIMS. The obligations about the command word and the opcode table (30_encoding.md R41 to R44, R55). -/

namespace Sys2Proof.Claims

open Sys2Proof.Machine

/-- Settles O1: the row of its mnemonic accepts the word, and each operand is read back from its field. -/
theorem decodeOfEncodeIsTheCommand : Obligations.DecodeOfEncodeIsTheCommand := decode_encode

/-- Settles O2: nothing stands outside the fields the command names. -/
theorem encodeOfDecodedWordIsTheWord : Obligations.EncodeOfDecodedWordIsTheWord := fun _ _ => encode_of_decode

/-- Settles O3: a row accepts by OP (`accepts_iff`), and OP and mnemonic name the same row (`mnemonic_eq_iff`). -/
theorem decodeAgreesWithOpcodeRows : Obligations.DecodeAgreesWithOpcodeRows := by
  intro w row hrow
  rw [accepts_iff hrow]
  constructor
  · rintro ⟨hw, hop⟩
    obtain ⟨i, hi⟩ := Option.ne_none_iff_exists'.1 (operation?_ne_none_of_row hrow hop)
    have hdecode : decode w = some i := decode_eq_some_iff.2 ⟨hw, hi⟩
    rw [opField_of_decode hdecode] at hop
    exact ⟨i, hdecode, (mnemonic_eq_iff hrow i).2 hop⟩
  · rintro ⟨i, hdecode, hname⟩
    rw [opField_of_decode hdecode]
    exact ⟨(decode_eq_some_iff.1 hdecode).1, (mnemonic_eq_iff hrow i).1 hname⟩

/-- Settles O4: the rows' OP values differ, and every command has a row. -/
theorem opcodeRowsAreDisjointAndComplete : Obligations.OpcodeRowsAreDisjointAndComplete := by
  constructor
  · intro w p q hp hq hpw hqw
    have hdistinct : ∀ p ∈ opcodeRows, ∀ q ∈ opcodeRows, p.matchBits = q.matchBits → p = q := by decide
    obtain ⟨-, hopp⟩ := (accepts_iff hp w).1 hpw
    obtain ⟨-, hopq⟩ := (accepts_iff hq w).1 hqw
    exact hdistinct p hp q hq (hopp.symm.trans hopq)
  · intro w
    constructor
    · intro hrejected
      refine Option.eq_none_iff_forall_ne_some.2 fun i hi => ?_
      obtain ⟨row, hrow, -, haccepts⟩ := rowMatch i
      rw [encode_of_decode hi, hrejected row hrow] at haccepts
      cases haccepts
    · intro hnone row hrow
      refine Bool.eq_false_iff.2 fun haccepts => ?_
      obtain ⟨i, hi, -⟩ := (decodeAgreesWithOpcodeRows w row hrow).1 haccepts
      cases hnone.symm.trans hi

/-- Settles O5: such an OP names no operation, and no operation uses a reserved bit. -/
theorem reservedOpsAndBitsDoNotDecode : Obligations.ReservedOpsAndBitsDoNotDecode := by
  intro w h
  refine decode_eq_none_iff.2 fun hw => ?_
  obtain hop | hop | hreserved := h
  · exact operation?_eq_none_iff.2 (.inl hop)
  · exact operation?_eq_none_iff.2 (.inr hop)
  · exact absurd (reserved_of_masked hw) hreserved

/-- Settles O6: each legal word is the encoding of its command (`decode_encode`); 0x20712 has a 1 above the fields of
RDREG. -/
theorem testVectorWordsDecode : Obligations.TestVectorWordsDecode :=
  ⟨by decide, decode_encode (.wrreg 0x38 3 0x55 0x66 0x77), decode_encode (.rdreg 0x3F 3), decode_encode (.setch 0x18 1),
    decode_encode (.setmode 0x02), decode_encode (.setrate 0x0A), decode_encode (.tosigned 0x80 0x01 0x23),
    decode_encode .init⟩

end Sys2Proof.Claims
end

section
/-! SUPPORT. What the assembler does with numbers (R56, R57): the bytes of a value, the operands as fields, and the one way a
line assembles. -/

namespace Sys2Proof

/-! ## Numbers as operands -/

theorem byteOf_lt (v k : Nat) : byteOf v k ≤ 0xFF := Nat.le_of_lt_succ (Nat.mod_lt _ (by decide))

@[simp] theorem fitsByte_byteOf (v k : Nat) : fitsByte (byteOf v k) = true := decide_eq_true (byteOf_lt v k)

/-- A number read from at most 8 bits fits a byte. -/
@[simp] theorem fitsByte_toNat {n : Nat} (hn : n ≤ 8) (a : BitVec n) : fitsByte a.toNat = true :=
  decide_eq_true (Nat.le_of_lt_succ (a.isLt.trans_le (Nat.pow_le_pow_right (by decide) hn)))

@[simp] theorem byteOperand_toNat {n : Nat} (a : BitVec n) : byteOperand a.toNat = a.setWidth 8 := by simp [byteOperand]

/-- Byte `k` of a value is its bits from `8 * k` up (R57). -/
@[simp] theorem byteOperand_byteOf {n : Nat} (v : BitVec n) (k : Nat) :
    byteOperand (byteOf v.toNat k) = v.extractLsb' (8 * k) 8 := by
  apply BitVec.eq_of_toNat_eq
  simp [byteOperand, byteOf, Nat.shiftRight_eq_div_pow]

theorem toNat_byteOperand {n : Nat} (h : fitsByte n = true) : (byteOperand n).toNat = n :=
  Nat.mod_eq_of_lt (Nat.lt_succ_of_le (of_decide_eq_true h))

theorem toNat_lenOperand {n : Nat} (h : fitsLen n = true) : (BitVec.ofNat 2 n).toNat = n :=
  Nat.mod_eq_of_lt (Nat.lt_succ_of_le (of_decide_eq_true h))

theorem toNat_enOperand {n : Nat} (h : fitsEn n = true) : (BitVec.ofNat 1 n).toNat = n :=
  Nat.mod_eq_of_lt (Nat.lt_succ_of_le (of_decide_eq_true h))

/-- An omitted byte is 0 (R56). -/
theorem toNat_optByteOperand {b : Option Nat} (h : optFitsByte b = true) : (optByteOperand b).toNat = b.getD 0 := by
  cases b with
  | none => rfl
  | some n => exact toNat_byteOperand h

theorem optFitsByte_iff {b : Option Nat} : optFitsByte b = true ↔ b.getD 0 ≤ 0xFF := by
  cases b <;> simp [optFitsByte, fitsByte]

theorem omissionsOk_iff {len : Nat} {b1 b2 : Option Nat} :
    omissionsOk len b1 b2 = true ↔ (b1 = none → len ≤ 1 ∧ b2 = none) ∧ (b2 = none → len ≤ 2) := by
  cases b1 <;> cases b2 <;> simp [omissionsOk]

/-! ## Assembly -/

theorem toInstr?_eq_some_iff {c : AsmCmd} {i : Instr} : c.toInstr? = some i ↔ c.wf = true ∧ c.instr = i := by
  simp [AsmCmd.toInstr?]

/-- A line assembles when its value fits and its command is well formed, to the word of that command. -/
theorem assemble?_eq_some_iff {cfg : Config} {l : AsmLine} {w : Word64} :
    l.assemble? cfg = some w ↔
      l.valueFits = true ∧ (l.expand cfg).wf = true ∧ encode (l.expand cfg).instr = w := by
  simp [AsmLine.assemble?, AsmCmd.toInstr?]

end Sys2Proof

namespace Sys2Proof.Claims

open Sys2Proof.Machine

theorem assemblesTo_of_expand {cfg : Config} {l : AsmLine} {i : Instr} (hfits : l.valueFits = true)
    (hwf : (l.expand cfg).wf = true) (hinstr : (l.expand cfg).instr = i) : AssemblesTo cfg l i :=
  ⟨encode i, assemble?_eq_some_iff.2 ⟨hfits, hwf, by rw [hinstr]⟩, decode_encode i⟩

/-- The fields of an encoded command, every reserved bit being 0 (R41, R56). -/
theorem fieldsAre_encode {i : Instr} {op : BitVec 4} {a : Byte} {len : BitVec 2} {b0 b1 b2 : Byte} {en : BitVec 1}
    (h : encode i = packWord op a len b0 b1 b2 en) :
    FieldsAre (encode i) op.toNat a.toNat len.toNat b0.toNat b1.toNat b2.toNat en.toNat :=
  have hreserved := reserved_of_masked (fieldsOnly_encode i)
  ⟨by simp [h], by simp [h], by simp [h], by simp [h], by simp [h], by simp [h], by simp [h], hreserved⟩

/-- A command assembles exactly when it is well formed, and then its word is the encoded command. -/
theorem assembledFields_of_wf {c : AsmCmd} {fits : Prop} {op a len b0 b1 b2 en : Nat} (hwf : c.wf = true ↔ fits)
    (hfields : c.wf = true → FieldsAre (encode c.instr) op a len b0 b1 b2 en) :
    AssembledFields c fits op a len b0 b1 b2 en := by
  intro cfg
  constructor
  · intro h
    have hc := hwf.2 h
    exact ⟨_, assemble?_eq_some_iff.2 ⟨rfl, hc, rfl⟩, hfields hc⟩
  · intro h
    refine Option.eq_none_iff_forall_ne_some.2 fun w hw => ?_
    obtain ⟨-, hc, -⟩ := assemble?_eq_some_iff.1 hw
    exact h (hwf.1 hc)

/-- A command without operands always assembles, to its OP alone (R56). -/
theorem assembledFields_of_no_operand {c : AsmCmd} (hwf : c.wf = true)
    (h : encode c.instr = packWord (opcode c.instr) 0#8 0#2 0#8 0#8 0#8 0#1) :
    AssembledFields c True (opcode c.instr).toNat 0 0 0 0 0 0 :=
  assembledFields_of_wf (by simp [hwf]) fun _ => fieldsAre_encode h

/-- SETMODE takes a mode's name as the number it stands for (R56). -/
theorem assembledFields_setmode {t : ModeOperand} {fits : Prop} (h : t.value ≤ 0xFF ↔ fits) :
    AssembledFields (.setmode t) fits 0x6 t.value 0 0 0 0 0 := by
  refine assembledFields_of_wf (by simp [AsmCmd.wf, fitsByte, h]) fun hwf => ?_
  simpa [toNat_byteOperand hwf] using fieldsAre_encode (i := (AsmCmd.setmode t).instr) rfl

end Sys2Proof.Claims
end

section
/-! CLAIMS. The obligations about the assembler (30_encoding.md R56, R57). -/

namespace Sys2Proof.Claims

open Sys2Proof.Machine

/-- Settles O7: the assembler encodes, decoding undoes it, and each expansion names the bytes of the table. -/
theorem assembledLineDecodesToItsCommand : Obligations.AssembledLineDecodesToItsCommand := by
  constructor
  · intro cfg l w h
    obtain ⟨-, hwf, rfl⟩ := assemble?_eq_some_iff.1 h
    exact ⟨_, toInstr?_eq_some_iff.2 ⟨hwf, rfl⟩, decode_encode _⟩
  · intro cfg a
    refine ⟨fun v => ?wr8, fun v => ?wr16, fun v => ?wr24, ?rd8, ?rd16, ?rd24, ?ench, ?disch, ?rdid⟩
    case wr8 | wr16 | wr24 =>
      exact assemblesTo_of_expand (decide_eq_true v.isLt)
        (by simp [AsmLine.expand, AsmCmd.wf, fitsLen, optFitsByte, omissionsOk])
        (by simp [AsmLine.expand, AsmCmd.instr, optByteOperand])
    case rd8 | rd16 | rd24 =>
      exact assemblesTo_of_expand rfl (by simp [AsmLine.expand, AsmCmd.wf, fitsLen])
        (by simp [AsmLine.expand, AsmCmd.instr])
    case ench | disch =>
      exact assemblesTo_of_expand rfl (by simp [AsmLine.expand, AsmCmd.wf, fitsEn])
        (by simp [AsmLine.expand, AsmCmd.instr])
    case rdid =>
      exact assemblesTo_of_expand rfl (by simp [AsmLine.expand, AsmCmd.wf, fitsLen])
        (by simp [AsmLine.expand, AsmCmd.instr])

/-- Settles O8: a well-formed command's operands are the numbers of the fields they are packed into. -/
theorem assembledOperandsArriveUnchanged : Obligations.AssembledOperandsArriveUnchanged := by
  refine ⟨fun addr len b0 b1 b2 => ?wrreg, fun addr len => ?rdreg, ?reset, ?resync, fun chan en => ?setch, ?cc, ?sc, ?cr,
    fun target => ?setmode, ?rdsample, fun code => ?setrate, fun b0 b1 b2 => ?tosigned, ?init, ?rdyq⟩
  case wrreg =>
    refine assembledFields_of_wf (by simp [AsmCmd.wf, fitsByte, fitsLen, optFitsByte_iff, omissionsOk_iff, and_assoc])
      fun hwf => ?_
    simp only [AsmCmd.wf, Bool.and_eq_true, and_assoc] at hwf
    obtain ⟨haddr, hlen, h0, h1, h2, -⟩ := hwf
    simpa [toNat_byteOperand haddr, toNat_lenOperand hlen, toNat_byteOperand h0, toNat_optByteOperand h1,
      toNat_optByteOperand h2] using fieldsAre_encode (i := (AsmCmd.wrreg addr len b0 b1 b2).instr) rfl
  case rdreg =>
    refine assembledFields_of_wf (by simp [AsmCmd.wf, fitsByte, fitsLen]) fun hwf => ?_
    obtain ⟨haddr, hlen⟩ := Bool.and_eq_true_iff.1 hwf
    simpa [toNat_byteOperand haddr, toNat_lenOperand hlen] using fieldsAre_encode (i := (AsmCmd.rdreg addr len).instr) rfl
  case setch =>
    refine assembledFields_of_wf (by simp [AsmCmd.wf, fitsByte, fitsEn]) fun hwf => ?_
    obtain ⟨hchan, hen⟩ := Bool.and_eq_true_iff.1 hwf
    simpa [toNat_byteOperand hchan, toNat_enOperand hen] using fieldsAre_encode (i := (AsmCmd.setch chan en).instr) rfl
  case setmode => exact assembledFields_setmode .rfl
  case cc | sc | cr => exact assembledFields_setmode (by decide)
  case setrate =>
    refine assembledFields_of_wf (by simp [AsmCmd.wf, fitsByte]) fun hwf => ?_
    simpa [toNat_byteOperand hwf] using fieldsAre_encode (i := (AsmCmd.setrate code).instr) rfl
  case tosigned =>
    refine assembledFields_of_wf (by simp [AsmCmd.wf, fitsByte, and_assoc]) fun hwf => ?_
    simp only [AsmCmd.wf, Bool.and_eq_true, and_assoc] at hwf
    obtain ⟨h0, h1, h2⟩ := hwf
    simpa [toNat_byteOperand h0, toNat_byteOperand h1, toNat_byteOperand h2] using
      fieldsAre_encode (i := (AsmCmd.tosigned b0 b1 b2).instr) rfl
  case reset | resync | rdsample | init | rdyq => exact assembledFields_of_no_operand rfl rfl

end Sys2Proof.Claims
end

section
/-! SUPPORT. The engine's turn as an equation (R12, R43), and the bus frame of every command (R49): `exec_frame` says how many
exchanges a command that completes makes and which other events. -/

namespace Sys2Proof.Claims

open Sys2Proof.Machine

/-! ## The engine's turn -/

/-- On the engine's turn a step runs the word in CMD (R12, R20). -/
theorem step_of_engineMoves {s : State} {rest : List HostTurn} (hbusy : s.busy = true) (hturn : EngineMoves s rest) :
    step s = runCommand { s with hostIn := rest } := by
  obtain ⟨hnil, rfl⟩ | hidle := hturn
  · have hs : { s with hostIn := [] } = s := by rw [← hnil]
    rw [hs]
    simp [step, turnStep, engineTurn, hnil, hbusy]
  · simp [step, turnStep, takeTurn, engineTurn, hidle, hbusy]

theorem runCommand_of_illegal {s : State} (h : decode s.cmd = none) :
    runCommand s = .next (raiseStatus .illegalCmd s) := by simp [runCommand, h]

theorem runCommand_of_decode {s : State} {i : Instr} (h : decode s.cmd = some i) : runCommand s = exec i s := by
  simp [runCommand, h]

/-! ## Exchanges and nothing else -/

theorem others_of_only_xchg {evs : List BusEvent} (h : ∀ e ∈ evs, ∃ out inp, e = BusEvent.xchg out inp) :
    others evs = [] := by
  induction evs with
  | nil => rfl
  | cons e es ih =>
    obtain ⟨⟨out, inp, rfl⟩, hes⟩ := List.forall_mem_cons.1 h
    exact ih hes

theorem others_append (as bs : List BusEvent) : others (as ++ bs) = others as ++ others bs := by
  induction as with
  | nil => rfl
  | cons e es ih => cases e <;> simp [others, ih]

/-- A read-modify-write makes eight exchanges more (R49). -/
theorem modify2_onBus_after {s t : State} {n : Nat} (a : RegAddr) (f0 f1 : Byte → Byte) (h : ∃ evs, OnBus s t evs n) :
    ∃ evs, OnBus s (modify2 a f0 f1 t) evs (n + 8) := by
  obtain ⟨as, hs⟩ := h
  obtain ⟨bs, ht⟩ := modify2_onBus a f0 f1 t
  exact ⟨as ++ bs, hs.trans ht⟩

/-- The read-modify-writes of a row of the transition table: two, or four for CR (R49, R66). -/
theorem modeActions_onBus_count {m : ConvMode} (hm : m ≠ .unknown) (s : State) :
    ∃ evs, OnBus s (modeActions m s) evs (if m = .cr then 32 else 16) := by
  have hclr : ∃ evs, OnBus s (clrCR s) evs 8 := modify2_onBus ..
  cases m with
  | cc => exact modify2_onBus_after _ _ _ hclr
  | sc => exact modify2_onBus_after _ _ _ hclr
  | cr => exact modify2_onBus_after _ _ _ (modify2_onBus_after _ _ _ (modify2_onBus_after _ _ _ hclr))
  | unknown => exact absurd rfl hm

/-- Which target names which mode (R67). -/
theorem targetMode?_eq_some {a : Byte} {m : ConvMode} (h : targetMode? a = some m) :
    m ≠ .unknown ∧ (m = .cr ↔ a = 0x02#8) := by
  have ha : a = BitVec.ofNat 8 a.toNat := by simp
  unfold targetMode? at h
  split at h <;> cases h <;> rename_i hval <;> rw [ha, hval] <;> decide

/-! ## The frame of a command -/

/-- From `s` to `u` the trace grew by the events the table gives the command (R49). -/
def Framed (i : Instr) (s u : State) : Prop :=
  ∃ evs, u.trace = s.trace ++ evs ∧ countXchg evs = frameExchanges i s ∧ FrameOthers i s (others evs)

/-- A frame of exchanges alone. -/
theorem framed_of_onBus {i : Instr} {s u : State} {n : Nat} (h : ∃ evs, OnBus s u evs n)
    (hn : n = frameExchanges i s) (hothers : FrameOthers i s []) : Framed i s u := by
  obtain ⟨evs, hbus⟩ := h
  exact ⟨evs, hbus.emits.trace, hbus.count.trans hn, by rwa [others_of_only_xchg hbus.only]⟩

/-- How a command ends: refused before it did anything, or with the frame of the table and status OK. -/
def EndsFramed (i : Instr) (s : State) (o : Host.Outcome State Fault Refusal) : Prop :=
  (∃ st, st ≠ Status.ok ∧ o = .next (raiseStatus st s)) ∨ ∃ f u, o = .next (respond f u) ∧ Framed i s u

theorem EndsFramed.refused {i : Instr} {s : State} {st : Status} (h : st ≠ .ok) :
    EndsFramed i s (.next (raiseStatus st s)) := .inl ⟨st, h, rfl⟩

theorem EndsFramed.completed {i : Instr} {s u : State} {f : RespFields} (h : Framed i s u) :
    EndsFramed i s (.next (respond f u)) := .inr ⟨f, u, rfl, h⟩

theorem exec_frame (i : Instr) (s : State) : EndsFramed i s (exec i s) := by
  cases i with
  | wrreg a len b0 b1 b2 =>
    simp only [exec, execWrreg]
    split
    · refine .completed (framed_of_onBus (memWrite_onBus ..) ?_ rfl)
      have hlen := len.isLt
      simp [frameExchanges]
      omega
    · exact .refused (by decide)
  | rdreg a len =>
    simp only [exec, execRdreg]
    split
    · exact .completed (framed_of_onBus (memRead_onBus ..) rfl rfl)
    · exact .refused (by decide)
  | reset =>
    exact .completed (framed_of_onBus (u := (xchgs (List.replicate 16 0xFF#8) s).2) (xchgs_onBus ..) rfl rfl)
  | resync => exact .completed ⟨[.cs true, .wait s.cfg.gap, .cs false], by simp [resyncLine], rfl, rfl⟩
  | setch a en =>
    simp only [exec, execSetch]
    split
    · exact .completed (framed_of_onBus (modify2_onBus ..) rfl rfl)
    · exact .refused (by decide)
  | setmode a =>
    simp only [exec, execSetmode]
    split
    next m hm =>
      obtain ⟨hne, hcr⟩ := targetMode?_eq_some hm
      have hframe : Framed (.setmode a) s (modeActions m s) :=
        framed_of_onBus (modeActions_onBus_count hne s) (by simp [frameExchanges, hcr]) rfl
      exact .completed hframe
    next => exact .refused (by decide)
  | rdsample =>
    simp only [exec, execRdsample]
    split
    next => exact .refused (by decide)
    next hm => exact .completed (framed_of_onBus (xchgs_onBus ..) (by simp [frameExchanges, hm]) rfl)
    all_goals
      next hm => exact .completed (framed_of_onBus (memRead_onBus ..) (by simp [frameExchanges, hm]) rfl)
  | setrate code =>
    simp only [exec, execSetrate]
    split
    · exact .completed (framed_of_onBus (modify2_onBus ..) rfl rfl)
    · exact .refused (by decide)
  | tosigned b0 b1 b2 => exact .completed ⟨[], by simp, rfl, rfl⟩
  | init =>
    obtain ⟨evs, hread⟩ := memRead_onBus (resyncLine (xportBegin s)).cfg.addrId 2 (resyncLine (xportBegin s))
    refine .completed ⟨[.cfg, .cs true, .wait s.cfg.gap, .cs false] ++ evs, ?_, ?_, ?_⟩
    · rw [hread.emits.trace]
      simp [resyncLine]
    · rw [countXchg_append, hread.count]
      rfl
    · rw [others_append, others_of_only_xchg hread.only]
      rfl
  | rdyq => exact .completed ⟨[.rdy (nextLevel s)], rfl, rfl, _, rfl⟩

end Sys2Proof.Claims
end

section
/-! CLAIMS. The obligations about illegal words and about the lengths of bus frames (30_encoding.md R43, R49). -/

namespace Sys2Proof.Claims

open Sys2Proof.Machine

/-- Settles O40: the engine's turn runs the word, and an illegal word is refused at once. -/
theorem illegalWordAnswersIllegalCmd : Obligations.IllegalWordAnswersIllegalCmd := by
  intro s rest hbusy hturn hillegal
  exact (step_of_engineMoves hbusy hturn).trans (runCommand_of_illegal hillegal)

/-- A command's next state has the frame of the table when its status is OK, and no event when it is another (R49). -/
theorem exec_trace {i : Instr} {s t : State} (h : exec i s = .next t) :
    ∃ evs, t.trace = s.trace ++ evs ∧
      (respStatus t.resp = 0#8 → countXchg evs = frameExchanges i s ∧ FrameOthers i s (others evs)) ∧
      (respStatus t.resp ≠ 0#8 → evs = []) := by
  obtain ⟨st, hst, he⟩ | ⟨f, u, he, evs, htrace, hcount, hothers⟩ := exec_frame i s
  · cases he.symm.trans h
    exact ⟨[], by simp, fun hok => absurd ((statusCode_eq_zero st).1 (by simpa using hok)) hst, fun _ => rfl⟩
  · cases he.symm.trans h
    exact ⟨evs, htrace, fun _ => ⟨hcount, hothers⟩, fun hne => absurd (by simp [statusCode]) hne⟩

/-- A word refused, as illegal or by its command, leaves the trace as it was (R43, R78). -/
theorem runCommand_trace {s t : State} (h : runCommand s = .next t) (hne : respStatus t.resp ≠ 0#8) :
    t.trace = s.trace := by
  cases hdecode : decode s.cmd with
  | none =>
    rw [runCommand_of_illegal hdecode] at h
    cases h
    rfl
  | some i =>
    rw [runCommand_of_decode hdecode] at h
    obtain ⟨evs, htrace, -, hrefused⟩ := exec_trace h
    simpa [hrefused hne] using htrace

/-- Settles O42, from the frame of every command (`exec_frame`). -/
theorem busFramesHaveTheTableLengths : Obligations.BusFramesHaveTheTableLengths := by
  refine ⟨fun i s t h => exec_trace h, fun s t rest hbusy hturn h hne => ?_⟩
  rw [step_of_engineMoves hbusy hturn] at h
  exact runCommand_trace (s := { s with hostIn := rest }) h hne

end Sys2Proof.Claims
end

section
/-! SUPPORT. The two transactions as bus events of a command (R30, R31), the register address in the command byte (R44,
R46), the operands of WRREG and RDREG in range and out of range (R58, R59), and the end of a running command as the state
the statements name (`ended`, `refusedWith`). -/

namespace Sys2Proof.Claims

open Sys2Proof.Machine

/-! ## The events of a run of exchanges -/

theorem eventsFrom_take (outs : List Byte) (r : Nat → Byte) (k n : Nat) :
    eventsFrom (outs.take n) r k = (eventsFrom outs r k).take n := by
  induction outs generalizing k n with
  | nil => simp
  | cons out outs ih =>
    cases n with
    | zero => rfl
    | succ n => simp [ih]

theorem eventsFrom_replicate (out : Byte) (r : Nat → Byte) (n k : Nat) :
    eventsFrom (List.replicate n out) r k = (List.range n).map fun j => .xchg out (r (k + j)) := by
  induction n generalizing k with
  | zero => rfl
  | succ n ih =>
    simp [List.replicate_succ, ih, List.range_succ_eq_map, Function.comp_def, Nat.add_assoc, Nat.add_comm 1]

/-- Byte `i` of a received sequence; past its end it reads 0 (R6). -/
theorem byteAt_map_range (r : Nat → Byte) (n i : Nat) :
    byteAt ((List.range n).map r) i = if i < n then r i else 0#8 := by
  split
  next h => simp [byteAt, h]
  next h => simp [byteAt, Nat.le_of_not_lt h]

/-! ## The transactions of a command -/

/-- `memWrite_from` at the first exchange of a command. -/
theorem memWrite_spec (a : RegAddr) (n : Nat) (b : List Byte) (s : State) :
    ∃ r : Nat → Byte, Hears s ((b.take n).length + 2) r ∧
      memWrite a n b s = afterBus s (eventsFrom (s.cfg.frameByte :: writeCommand a :: b.take n) r 0) := by
  obtain ⟨r, -, hr, hw⟩ := memWrite_from a n b s 0 fun _ => 0#8
  exact ⟨r, fun k hk x hx => by simpa using hr k hk x hx, hw⟩

/-- `memRead_from` at the first exchange of a command. -/
theorem memRead_spec (a : RegAddr) (n : Nat) (s : State) :
    ∃ r : Nat → Byte, Hears s (n + 2) r ∧
      memRead a n s = ((List.range n).map (fun j => r (2 + j)),
        afterBus s (eventsFrom (s.cfg.frameByte :: readCommand a :: List.replicate n 0x00#8) r 0)) := by
  obtain ⟨r, -, hr, hm⟩ := memRead_from a n s 0 fun _ => 0#8
  exact ⟨r, fun k hk x hx => by simpa using hr k hk x hx, by simpa using hm⟩

/-- The toggle as its events and the level it leaves (R61). -/
theorem resyncLine_eq_afterBus (s : State) :
    resyncLine s = { afterBus s [.cs true, .wait s.cfg.gap, .cs false] with csN := false } := by
  simp [resyncLine, csDrive, waitGap, emit, afterBus]

/-! ## The register address in the command byte (R44, R46) -/

/-- An address of at most 0x3F is its own low six bits. -/
theorem regAddr_setWidth {a : Byte} (ha : a.toNat ≤ 0x3F) : (regAddr a).setWidth 8 = a := by
  unfold regAddr
  bv_omega

theorem writeCommand_regAddr {a : Byte} (ha : a.toNat ≤ 0x3F) : writeCommand (regAddr a) = a := regAddr_setWidth ha

theorem readCommand_regAddr {a : Byte} (ha : a.toNat ≤ 0x3F) : readCommand (regAddr a) = a ||| 0x40#8 := by
  rw [readCommand, regAddr_setWidth ha, BitVec.or_comm]

/-! ## WRREG and RDREG, in range and out of range -/

/-- A length field is a length of at most 3 (R35). -/
theorem len_le_three (len : BitVec 2) : len.toNat ≤ 3 := Nat.le_of_lt_succ len.isLt

/-- `n` fillers, at most three, are the first `n` of three (R31). -/
theorem fillers_eq_take {n : Nat} (h : n ≤ 3) :
    List.replicate n 0x00#8 = [0x00#8, 0x00#8, 0x00#8].take n := by
  rw [show [0x00#8, 0x00#8, 0x00#8] = List.replicate 3 0x00#8 from rfl, List.take_replicate, Nat.min_eq_left h]

/-- The fields RDREG answers, from the bytes its exchanges received: those on the fillers are `r 2` and on (R31, R59). -/
theorem rdreg_fields {len : BitVec 2} (hlen : len ≠ 0#2) (r : Nat → Byte) {raw : List Byte}
    (hraw : raw = (List.range len.toNat).map fun j => r (2 + j)) :
    ({ d0 := byteAt raw 0
       d1 := if 2 ≤ len.toNat then byteAt raw 1 else 0#8
       d2 := if len.toNat = 3 then byteAt raw 2 else 0#8 } : RespFields) =
    { d0 := r 2
      d1 := if len.toNat = 1 then 0#8 else r 3
      d2 := if len.toNat = 3 then r 4 else 0#8 } := by
  subst hraw
  have hpos := len_pos hlen
  simp only [byteAt_map_range, RespFields.mk.injEq, true_and, and_true]
  refine ⟨if_pos hpos, ?_, ?_⟩
  · by_cases h : len.toNat = 1
    · simp [h]
    · have htwo : 2 ≤ len.toNat := by omega
      rw [if_pos htwo, if_pos (by omega), if_neg h]
  · by_cases h : len.toNat = 3 <;> simp [h]

/-- The range check of R58 and R59 where it fails. -/
theorem regAccess_outOfRange {a : Byte} {len : BitVec 2} (h : 0x3F < a.toNat ∨ len = 0#2) :
    ¬ (addrInRange a && lenInRange len) = true := by
  obtain ha | rfl := h
  · simp [addrInRange, Nat.not_le_of_lt ha]
  · simp [lenInRange]

theorem exec_wrreg_outOfRange {a : Byte} {len : BitVec 2} (b0 b1 b2 : Byte) (s : State)
    (h : 0x3F < a.toNat ∨ len = 0#2) : exec (.wrreg a len b0 b1 b2) s = .next (raiseStatus .outOfRange s) :=
  if_neg (regAccess_outOfRange h)

theorem exec_rdreg_outOfRange {a : Byte} {len : BitVec 2} (s : State) (h : 0x3F < a.toNat ∨ len = 0#2) :
    exec (.rdreg a len) s = .next (raiseStatus .outOfRange s) :=
  if_neg (regAccess_outOfRange h)

/-! ## The end of a running command (R17, R21, R78) -/

theorem opField_of_running {i : Instr} {s : State} (h : Running i s) : opField s.cmd = opcode i := by
  obtain ⟨-, hdecode⟩ := h
  exact opField_of_decode hdecode

/-- VIOL after bus events, field by field: only an exchange can set a flag (R17). -/
theorem afterBus_viol (s : State) (evs : List BusEvent) :
    (afterBus s evs).viol =
      { unsync := s.viol.unsync || (s.csN && decide (0 < countXchg evs))
        nocfg := s.viol.nocfg || (!s.xcfg && decide (0 < countXchg evs))
        overrun := s.viol.overrun } := by
  by_cases h : countXchg evs = 0
  · simp [afterBus, h]
  · simp [afterBus, h, violOnExchange, Nat.pos_of_ne_zero h]

/-- A running command that responds after bus events ends in the state the statements name. -/
theorem respond_afterBus {i : Instr} {s : State} (hrun : Running i s) (f : RespFields) (evs : List BusEvent) :
    respond f (afterBus s evs) = ended s evs (countXchg evs) (respWord .ok (opcode i) f) := by
  rw [ended, ← afterBus_viol, ← opField_of_running hrun]
  rfl

/-- A running command that is refused ends in the state the statements name. -/
theorem raiseStatus_of_running {i : Instr} {s : State} (hrun : Running i s) (st : Status) :
    raiseStatus st s = refusedWith s (respWord st (opcode i) {}) := by
  rw [← opField_of_running hrun]
  rfl

/-- The response does not look at MODE and leaves it as it is. -/
theorem respond_withMode (f : RespFields) (m : ConvMode) (s : State) :
    respond f { s with mode := m } = { respond f s with mode := m } := rfl

/-- The response does not look at CS_N and leaves it as it is. -/
theorem respond_withCsN (f : RespFields) (l : Bool) (s : State) :
    respond f { s with csN := l } = { respond f s with csN := l } := rfl

end Sys2Proof.Claims
end

section
/-! CLAIMS. The obligations about the register transactions, the device reset and the resync (40_transactions.md). -/

namespace Sys2Proof.Claims

open Sys2Proof.Machine

/-- Settles O9: the payload is the first `len` of three bytes, so the events are the first `len + 2` of five. -/
theorem wrregEmitsOneWriteTransaction : Obligations.WrregEmitsOneWriteTransaction := by
  intro a len b0 b1 b2 s ha hlen hrun
  have hpayload : ([b0, b1, b2].take len.toNat).length = len.toNat :=
    List.length_take_of_le (len_le_three len)
  obtain ⟨r, hr, hw⟩ := memWrite_spec (regAddr a) len.toNat [b0, b1, b2] s
  rw [hpayload] at hr
  refine ⟨r, hr, ?_⟩
  rw [exec_wrreg_inRange b0 b1 b2 s ha hlen, hw, respond_afterBus hrun, writeCommand_regAddr ha,
    countXchg_eventsFrom, List.length_cons, List.length_cons, hpayload]
  simp [eventsFrom_take, opcode]

/-- Settles O10: the fillers are the first `len` of three, and what they receive is what is answered. -/
theorem rdregReturnsTheReceivedBytes : Obligations.RdregReturnsTheReceivedBytes := by
  intro a len s ha hlen hrun
  obtain ⟨r, hr, hm⟩ := memRead_spec (regAddr a) len.toNat s
  refine ⟨r, hr, ?_⟩
  rw [exec_rdreg_inRange s ha hlen, rdreg_fields hlen r (congrArg Prod.fst hm), hm, respond_afterBus hrun,
    readCommand_regAddr ha, countXchg_eventsFrom, List.length_cons, List.length_cons, List.length_replicate,
    fillers_eq_take (len_le_three len)]
  simp [eventsFrom_take, opcode]

/-- Settles O13: the sixteen exchanges as the bus effect of their events; MODE is written after them. -/
theorem resetEmitsThePatternAndForgetsTheMode : Obligations.ResetEmitsThePatternAndForgetsTheMode := by
  intro s hrun
  obtain ⟨r, hr, hx⟩ := xchgs_spec (List.replicate 16 0xFF#8) s
  refine ⟨r, hr, ?_⟩
  rw [exec, execReset, hx, respond_withMode, respond_afterBus hrun, countXchg_eventsFrom, List.length_replicate,
    eventsFrom_replicate]
  simp [opcode]

/-- Settles O11: the range check fails before any exchange. -/
theorem registerAccessOutOfRangeIsRefused : Obligations.RegisterAccessOutOfRangeIsRefused := by
  refine ⟨fun a len b0 b1 b2 s h hrun => ?_, fun a len s h hrun => ?_⟩
  · rw [exec_wrreg_outOfRange b0 b1 b2 s h, raiseStatus_of_running hrun]
    rfl
  · rw [exec_rdreg_outOfRange s h, raiseStatus_of_running hrun]
    rfl

/-- Settles O14: the toggle makes no exchange, so VIOL stays. -/
theorem resyncTogglesTheChipSelect : Obligations.ResyncTogglesTheChipSelect := by
  intro s hrun
  rw [exec, execResync, resyncLine_eq_afterBus, respond_withCsN, respond_afterBus hrun]
  rfl

end Sys2Proof.Claims
end

section
/-! SUPPORT. The channel register: the two bytes SETCH writes as numbers and bits (R50, R62, R63), and SETCH in range as one
read-modify-write, out of range as a refusal. -/

namespace Sys2Proof.Claims

open Sys2Proof.Machine

/-! ## The bytes of the channel register -/

theorem channelIndex_eq_mod (a : Byte) : channelIndex a = a.toNat % 16 := by
  rw [channelIndex, BitVec.toNat_and]
  exact Nat.and_two_pow_sub_one_eq_mod a.toNat 4

/-- Byte 1 as a sum: `idx + 1` is at most 16, so the two fields of R50 do not overlap. -/
theorem channelByte1_eq_sum (a : Byte) :
    channelByte1 a = BitVec.ofNat 8 (a.toNat % 16 * 32 + (a.toNat % 16 + 1)) := by
  have hfits : a.toNat % 16 + 1 < 2 ^ 5 := by omega
  rw [channelByte1, channelIndex_eq_mod, ← Nat.shiftLeft_add_eq_or_of_lt hfits, Nat.shiftLeft_eq]

/-- The mask of the bits byte 0 keeps (R50). -/
theorem dataMask_getElem : ∀ (k : Nat) (hk : k < 8), (0x7F#8)[k] = decide (k ≠ 7) := by decide

/-- The mask of the enable bit (R50). -/
theorem enableMask_getElem : ∀ (k : Nat) (hk : k < 8), (0x80#8)[k] = decide (k = 7) := by decide

/-- Byte 0 bit by bit: the enable in bit 7, the other bits as read (R50). -/
theorem channelByte0_getElem (en : BitVec 1) (old : Byte) {k : Nat} (hk : k < 8) :
    (channelByte0 en old)[k] = if k = 7 then en[0] else old[k] := by
  by_cases h : k = 7
  · subst h
    simp [channelByte0, BitVec.getLsbD_eq_getElem]
  · have hlow : k < 7 := by omega
    simp [channelByte0, h, hlow, dataMask_getElem k hk]

theorem channelByte0_enabled_bit (old : Byte) : (channelByte0 1#1 old).getLsbD 7 = true := by
  rw [BitVec.getLsbD_eq_getElem (by decide), channelByte0_getElem]
  rfl

/-- Disabling a register that is enabled flips bit 7 and no other (R64). -/
theorem channelByte0_disable_enabled (old : Byte) :
    channelByte0 0#1 (channelByte0 1#1 old) = channelByte0 1#1 old ^^^ 0x80#8 := by
  ext k hk
  rw [BitVec.getElem_xor, enableMask_getElem k hk]
  by_cases h : k = 7 <;> simp [channelByte0_getElem, h]

/-! ## SETCH, in range and out of range -/

/-- `modify2_from` at the first exchange of a command. -/
theorem modify2_spec (a : RegAddr) (f0 f1 : Byte → Byte) (s : State) :
    ∃ r : Nat → Byte, Hears s 8 r ∧
      modify2 a f0 f1 s = afterBus s (rmwEvents s.cfg.frameByte (a.setWidth 8) r 0 (f0 (r 2)) (f1 (r 3))) := by
  obtain ⟨r, -, hr, hm⟩ := modify2_from a f0 f1 s 0 fun _ => 0#8
  exact ⟨r, fun k hk b hb => by simpa using hr k hk b hb, hm⟩

/-- SETCH in range is one read-modify-write of the channel register (R62). -/
theorem exec_setch_inRange {a : Byte} (en : BitVec 1) (s : State) (hlow : 0x10 ≤ a.toNat) (hhigh : a.toNat ≤ 0x1F) :
    ∃ r : Nat → Byte, Hears s 8 r ∧
      exec (.setch a en) s = .next (respond {} (afterBus s
        (rmwEvents s.cfg.frameByte a r 0 (channelByte0 en (r 2)) (channelByte1 a)))) := by
  obtain ⟨r, hr, hm⟩ := modify2_spec (regAddr a) (channelByte0 en) (fun _ => channelByte1 a) s
  have hrange : chanInRange a = true := decide_eq_true ⟨hlow, hhigh⟩
  refine ⟨r, hr, ?_⟩
  rw [exec, execSetch, if_pos hrange, hm, regAddr_setWidth (by omega)]

theorem exec_setch_outOfRange {a : Byte} (en : BitVec 1) (s : State) (h : a.toNat < 0x10 ∨ 0x1F < a.toNat) :
    exec (.setch a en) s = .next (raiseStatus .outOfRange s) := by
  have hrange : ¬ chanInRange a = true := by
    rw [chanInRange, decide_eq_true_eq]
    omega
  exact if_neg hrange

/-- The byte 0 SETCH read, third of the bytes it heard, decides the two bytes it writes, last of those it sent (R62). -/
theorem setch_writes_channelBytes {a : Byte} {en : BitVec 1} {s t : State} {e : List BusEvent}
    (hlow : 0x10 ≤ a.toNat) (hhigh : a.toNat ≤ 0x1F) (h : exec (.setch a en) s = .next t)
    (htrace : t.trace = s.trace ++ e) :
    ∃ v0 v1 : Byte, pairAt (heard e) 2 = [v0, v1] ∧
      pairAt (sent e) 6 = [channelByte0 en v0, channelByte1 a] := by
  obtain ⟨r, -, hexec⟩ := exec_setch_inRange en s hlow hhigh
  cases hexec.symm.trans h
  obtain rfl := List.append_cancel_left htrace
  exact ⟨r 2, r 3, rfl, rfl⟩

end Sys2Proof.Claims
end

section
/-! CLAIMS. The obligations about the channel configurator (41_channel.md). -/

namespace Sys2Proof.Claims

open Sys2Proof.Machine

/-- Settles O16: SETCH in range is one read-modify-write; byte 1 is the sum the rule gives. -/
theorem setchRewritesTheChannelRegister : Obligations.SetchRewritesTheChannelRegister := by
  intro a en s hlow hhigh hrun
  obtain ⟨r, hr, hexec⟩ := exec_setch_inRange en s hlow hhigh
  refine ⟨r, hr, ?_⟩
  rw [hexec, respond_afterBus hrun, channelByte1_eq_sum]
  rfl

/-- Settles O19: the second command reads the byte 0 the first wrote, enabled, and disables it; byte 1 depends on the
address alone. -/
theorem enableThenDisableDiffersInOneBit : Obligations.EnableThenDisableDiffersInOneBit := by
  intro a s t u e f w b ts rs hlow hhigh henable hdisable he hf hecho
  obtain ⟨v0, v1, -, hfirst⟩ := setch_writes_channelBytes hlow hhigh henable he
  obtain ⟨x0, x1, hread, hsecond⟩ := setch_writes_channelBytes hlow hhigh hdisable hf
  obtain ⟨rfl, -⟩ : x0 = channelByte0 1#1 v0 ∧ x1 = channelByte1 a := by
    simpa [hread, hfirst] using hecho
  rw [channelByte0_disable_enabled] at hsecond
  exact ⟨_, _, hfirst, hsecond, channelByte0_enabled_bit v0⟩

/-- Settles O17: the range check fails before any exchange. -/
theorem setchOutOfRangeIsRefused : Obligations.SetchOutOfRangeIsRefused := by
  intro a en s h hrun
  rw [exec_setch_outOfRange en s h, raiseStatus_of_running hrun]
  rfl

/-- Settles O18: sixteen addresses, evaluated. -/
theorem channelByteOneTable : Obligations.ChannelByteOneTable := by
  unfold Obligations.ChannelByteOneTable
  decide

end Sys2Proof.Claims
end

section
/-! SUPPORT. The mode registers: what the four sub-actions do to a byte written back (R51, R52, R65), a sequence of
read-modify-writes as its bus events, and SETMODE as the sequence its row of the transition table names (R66, R67). -/

namespace Sys2Proof.Claims

open Sys2Proof.Machine

/-! ## The bytes of the mode registers -/

@[simp] theorem clearContRead_clearContRead (b : Byte) : clearContRead (clearContRead b) = clearContRead b := by
  simp [clearContRead, BitVec.and_assoc]

/-- Clearing the continuous-read bit undoes setting it, whatever it was before (R51). -/
@[simp] theorem clearContRead_setContRead (b : Byte) : clearContRead (setContRead b) = clearContRead b := by
  simp [clearContRead, setContRead, BitVec.and_or_distrib_right]

@[simp] theorem adcModeCC_adcModeCC (b : Byte) : adcModeCC (adcModeCC b) = adcModeCC b := by
  simp [adcModeCC, BitVec.and_assoc]

@[simp] theorem adcModeSC_adcModeSC (b : Byte) : adcModeSC (adcModeSC b) = adcModeSC b := by
  simp [adcModeSC, BitVec.and_or_distrib_right, BitVec.and_assoc]

/-- The continuous-read-enable bit is bit 3 (R51). -/
theorem clearContRead_bitClear (b : Byte) : bitClear (clearContRead b) 3 := by
  simp [bitClear, clearContRead]

/-- The mode field is bits [6:4] (R52). -/
theorem adcModeCC_bitClear (b : Byte) :
    bitClear (adcModeCC b) 4 ∧ bitClear (adcModeCC b) 5 ∧ bitClear (adcModeCC b) 6 := by
  simp [bitClear, adcModeCC]

/-! ## A sequence of read-modify-writes -/

/-- One sub-action of R65: the register at `addr` gets its byte 0 back as read and its byte 1 as `byte1` of what was read. -/
structure RegUpdate where
  addr  : RegAddr
  byte1 : Byte → Byte

/-- The updates in order, each complete before the next begins (R66). -/
def applyUpdates : List RegUpdate → State → State
  | [], s => s
  | u :: us, s => applyUpdates us (modify2 u.addr id u.byte1 s)

/-- The events of the updates; the first of them is exchange `k` of the command and receives `r k`. -/
def updateEvents (frame : Byte) (r : Nat → Byte) : Nat → List RegUpdate → List BusEvent
  | _, [] => []
  | k, u :: us =>
      rmwEvents frame (u.addr.setWidth 8) r k (r (k + 2)) (u.byte1 (r (k + 3))) ++ updateEvents frame r (k + 8) us

theorem countXchg_updateEvents (frame : Byte) (r : Nat → Byte) (k : Nat) (us : List RegUpdate) :
    countXchg (updateEvents frame r k us) = 8 * us.length := by
  induction us generalizing k with
  | nil => rfl
  | cons u us ih =>
    rw [updateEvents, countXchg_append, countXchg_rmwEvents, ih, List.length_cons]
    omega

@[simp] theorem sent_updateEvents_nil (frame : Byte) (r : Nat → Byte) (k : Nat) :
    sent (updateEvents frame r k []) = [] := rfl

/-- An update sends a read transaction and a write transaction (R30, R31, R65). -/
@[simp] theorem sent_updateEvents_cons (frame : Byte) (r : Nat → Byte) (k : Nat) (u : RegUpdate) (us : List RegUpdate) :
    sent (updateEvents frame r k (u :: us)) =
      [frame, 0x40#8 ||| u.addr.setWidth 8, 0x00#8, 0x00#8, frame, u.addr.setWidth 8, r (k + 2), u.byte1 (r (k + 3))] ++
        sent (updateEvents frame r (k + 8) us) := rfl

@[simp] theorem heard_updateEvents_nil (frame : Byte) (r : Nat → Byte) (k : Nat) :
    heard (updateEvents frame r k []) = [] := rfl

@[simp] theorem heard_updateEvents_cons (frame : Byte) (r : Nat → Byte) (k : Nat) (u : RegUpdate)
    (us : List RegUpdate) :
    heard (updateEvents frame r k (u :: us)) =
      [r k, r (k + 1), r (k + 2), r (k + 3), r (k + 4), r (k + 5), r (k + 6), r (k + 7)] ++
        heard (updateEvents frame r (k + 8) us) := rfl

/-- A sequence of updates has the bus effect of its events. The bytes named before `k` are kept, as in `modify2_from`. -/
theorem applyUpdates_from (us : List RegUpdate) (s : State) (k : Nat) (r : Nat → Byte) :
    ∃ q : Nat → Byte, (∀ j, j < k → q j = r j) ∧
      (∀ j, j < 8 * us.length → ∀ x, s.rxIn[j]? = some x → q (k + j) = x) ∧
      applyUpdates us s = afterBus s (updateEvents s.cfg.frameByte q k us) := by
  induction us generalizing s k r with
  | nil => exact ⟨r, fun _ _ => rfl, by simp, by simp [applyUpdates, updateEvents]⟩
  | cons u us ih =>
    obtain ⟨p, hkept, hheard, hfirst⟩ := modify2_from u.addr id u.byte1 s k r
    obtain ⟨q, hqp, hrest, happly⟩ := ih (modify2 u.addr id u.byte1 s) (k + 8) p
    refine ⟨q, fun j hj => (hqp j (by omega)).trans (hkept j hj), fun j hj x hx => ?_, ?_⟩
    · by_cases h : j < 8
      · rw [hqp (k + j) (by omega)]
        exact hheard j h x hx
      · have hidx : 8 + (j - 8) = j := by omega
        have hq := hrest (j - 8) (by rw [List.length_cons] at hj; omega) x
          (by rw [hfirst]; simpa [List.getElem?_drop, hidx] using hx)
        rwa [Nat.add_assoc, hidx] at hq
    · rw [applyUpdates, happly, hfirst, afterBus_afterBus, afterBus_cfg, updateEvents,
        rmwEvents_congr fun j hj => (hqp j hj).symm, hqp (k + 2) (by omega), hqp (k + 3) (by omega)]
      rfl

/-- The same from the first exchange of a command. -/
theorem applyUpdates_spec (us : List RegUpdate) (s : State) :
    ∃ r : Nat → Byte, Hears s (8 * us.length) r ∧
      applyUpdates us s = afterBus s (updateEvents s.cfg.frameByte r 0 us) := by
  obtain ⟨r, -, hr, happly⟩ := applyUpdates_from us s 0 fun _ => 0#8
  exact ⟨r, fun k hk b hb => by simpa using hr k hk b hb, happly⟩

/-! ## The rows of the transition table (R66) -/

/-- The updates of a row, in order. -/
def modeUpdates (c : Config) : ConvMode → List RegUpdate
  | .cc => [⟨c.addrIfMode, clearContRead⟩, ⟨c.addrAdcMode, adcModeCC⟩]
  | .sc => [⟨c.addrIfMode, clearContRead⟩, ⟨c.addrAdcMode, adcModeSC⟩]
  | .cr => [⟨c.addrIfMode, clearContRead⟩, ⟨c.addrIfMode, clearContRead⟩, ⟨c.addrAdcMode, adcModeCC⟩,
      ⟨c.addrIfMode, setContRead⟩]
  | .unknown => []

@[simp] theorem modify2_cfg (a : RegAddr) (f0 f1 : Byte → Byte) (s : State) : (modify2 a f0 f1 s).cfg = s.cfg := by
  obtain ⟨evs, hbus⟩ := modify2_onBus a f0 f1 s
  exact hbus.emits.cfg

theorem modeActions_eq_applyUpdates (m : ConvMode) (s : State) :
    modeActions m s = applyUpdates (modeUpdates s.cfg m) s := by
  cases m <;> simp [modeActions, modeUpdates, applyUpdates, clrCR, setCR, adcCC, adcSC]

/-! ## SETMODE, with a target of the table and with another -/

/-- SETMODE to a mode is the updates of its row, then the mode, then the response (R67). -/
theorem exec_setmode_of_target {a : Byte} {m : ConvMode} (ha : targetMode? a = some m) (s : State) :
    ∃ r : Nat → Byte, Hears s (8 * (modeUpdates s.cfg m).length) r ∧
      exec (.setmode a) s = .next (respond {}
        { afterBus s (updateEvents s.cfg.frameByte r 0 (modeUpdates s.cfg m)) with mode := m }) := by
  obtain ⟨r, hr, happly⟩ := applyUpdates_spec (modeUpdates s.cfg m) s
  exact ⟨r, hr, by simp only [exec, execSetmode, ha, modeActions_eq_applyUpdates, happly]⟩

/-- A running SETMODE to a mode ends in the state the statements name. -/
theorem setmode_ended {a : Byte} {m : ConvMode} (ha : targetMode? a = some m) {s : State}
    (hrun : Running (.setmode a) s) :
    ∃ r : Nat → Byte, Hears s (8 * (modeUpdates s.cfg m).length) r ∧
      exec (.setmode a) s = .next
        { ended s (updateEvents s.cfg.frameByte r 0 (modeUpdates s.cfg m)) (8 * (modeUpdates s.cfg m).length)
            (respWord .ok 0x6#4 {}) with mode := m } := by
  obtain ⟨r, hr, hexec⟩ := exec_setmode_of_target ha s
  refine ⟨r, hr, ?_⟩
  rw [hexec, respond_withMode, respond_afterBus hrun, countXchg_updateEvents]
  rfl

/-- The events a SETMODE to a mode put on the trace; the parameters stay. -/
theorem setmode_events {a : Byte} {m : ConvMode} {s t : State} {e : List BusEvent} (ha : targetMode? a = some m)
    (h : exec (.setmode a) s = .next t) (htrace : t.trace = s.trace ++ e) :
    t.cfg = s.cfg ∧ ∃ r : Nat → Byte, e = updateEvents s.cfg.frameByte r 0 (modeUpdates s.cfg m) := by
  obtain ⟨r, -, hexec⟩ := exec_setmode_of_target ha s
  cases hexec.symm.trans h
  exact ⟨rfl, r, (List.append_cancel_left htrace).symm⟩

/-- The events of two runs of SETMODE to a mode, the second at a state the host's turns left: the same updates, with
other bytes received. -/
theorem setmode_twice_events {a : Byte} {m : ConvMode} {s t u : State} {e f : List BusEvent} {w : Word64} {b : Bool}
    {ts : List HostTurn} {rs : List HostRead} (ha : targetMode? a = some m) (hfirst : exec (.setmode a) s = .next t)
    (hsecond : exec (.setmode a) (later t w b ts rs) = .next u) (he : t.trace = s.trace ++ e)
    (hf : u.trace = t.trace ++ f) :
    ∃ r q : Nat → Byte, e = updateEvents s.cfg.frameByte r 0 (modeUpdates s.cfg m) ∧
      f = updateEvents s.cfg.frameByte q 0 (modeUpdates s.cfg m) := by
  obtain ⟨hcfg, r, hr⟩ := setmode_events ha hfirst he
  obtain ⟨-, q, hq⟩ := setmode_events ha hsecond hf
  rw [show (later t w b ts rs).cfg = s.cfg from hcfg] at hq
  exact ⟨r, q, hr, hq⟩

/-- CC and SC differ in the byte 1 they write to ADCMODE alone; each is a fixed choice of the mode field (R52, R66). -/
theorem targetMode?_conversion {a : Byte} (ha : a = 0x00#8 ∨ a = 0x01#8) :
    ∃ m g, targetMode? a = some m ∧
      (∀ c : Config, modeUpdates c m = [⟨c.addrIfMode, clearContRead⟩, ⟨c.addrAdcMode, g⟩]) ∧
      (∀ v, g (g v) = g v) ∧ (a = 0x00#8 → g = adcModeCC) := by
  obtain rfl | rfl := ha
  · exact ⟨.cc, adcModeCC, rfl, fun _ => rfl, adcModeCC_adcModeCC, fun _ => rfl⟩
  · exact ⟨.sc, adcModeSC, rfl, fun _ => rfl, adcModeSC_adcModeSC, fun h => absurd h (by decide)⟩

theorem targetMode?_of_gt {a : Byte} (h : 0x02 < a.toNat) : targetMode? a = none := by
  unfold targetMode?
  split
  next h0 => omega
  next h1 => omega
  next h2 => omega
  next => rfl

theorem exec_setmode_otherTarget {a : Byte} (h : 0x02 < a.toNat) (s : State) :
    exec (.setmode a) s = .next (raiseStatus .invalidMode s) := by
  simp only [exec, execSetmode, targetMode?_of_gt h]

end Sys2Proof.Claims
end

section
/-! CLAIMS. The obligations about the mode controller (42_mode.md). -/

namespace Sys2Proof.Claims

open Sys2Proof.Machine

/-- Settles O20: the row of CC, written out. -/
theorem setmodeContinuousConversion : Obligations.SetmodeContinuousConversion :=
  fun _ hrun => setmode_ended (m := .cc) rfl hrun

/-- Settles O21: the row of SC, written out. -/
theorem setmodeSingleConversion : Obligations.SetmodeSingleConversion :=
  fun _ hrun => setmode_ended (m := .sc) rfl hrun

/-- Settles O22: the row of CR, written out. -/
theorem setmodeContinuousRead : Obligations.SetmodeContinuousRead :=
  fun _ hrun => setmode_ended (m := .cr) rfl hrun

/-- Settles O24: the second run reads what the first wrote, and both byte functions are idempotent. -/
theorem setmodeTwiceIsSetmodeOnce : Obligations.SetmodeTwiceIsSetmodeOnce := by
  intro a s t u e f w b ts rs ha hfirst hsecond he hf hifmode hadcmode
  obtain ⟨m, g, htarget, hupdates, hidem, hcc⟩ := targetMode?_conversion ha
  obtain ⟨r, q, rfl, rfl⟩ := setmode_twice_events htarget hfirst hsecond he hf
  rw [hupdates] at hifmode hadcmode ⊢
  obtain ⟨hif0, hif1⟩ : q 2 = r 2 ∧ q 3 = clearContRead (r 3) := by simpa [pairAt] using hifmode
  obtain ⟨hadc0, hadc1⟩ : q 10 = r 10 ∧ q 11 = g (r 11) := by simpa [pairAt] using hadcmode
  refine ⟨by simp [hif0, hif1, hadc0, hadc1, hidem], fun x y hxy => ?_, fun h0 x y hxy => ?_⟩
  · obtain ⟨-, rfl⟩ : r 2 = x ∧ clearContRead (r 3) = y := by simpa [pairAt] using hxy
    exact clearContRead_bitClear _
  · obtain ⟨-, rfl⟩ : r 10 = x ∧ g (r 11) = y := by simpa [pairAt] using hxy
    rw [hcc h0]
    exact adcModeCC_bitClear _

/-- Settles O25: the first clearing of the second run undoes the last setting of the first run, and from there each update
of the second run reads a byte 1 that differs from the first run's at most in a bit it overwrites. -/
theorem setmodeContinuousReadTwiceIsOnce : Obligations.SetmodeContinuousReadTwiceIsOnce := by
  intro s t u e f w b ts rs hfirst hsecond he hf hclrE hsetE hclrF hclrF' hadcF hsetF
  obtain ⟨r, q, rfl, rfl⟩ := setmode_twice_events (m := .cr) rfl hfirst hsecond he hf
  rw [modeUpdates] at hclrE hsetE hclrF hclrF' hadcF hsetF ⊢
  obtain ⟨hclrE0, hclrE1⟩ : r 10 = r 2 ∧ r 11 = clearContRead (r 3) := by simpa [pairAt] using hclrE
  obtain ⟨hsetE0, hsetE1⟩ : r 26 = r 10 ∧ r 27 = clearContRead (r 11) := by simpa [pairAt] using hsetE
  obtain ⟨hclrF0, hclrF1⟩ : q 2 = r 26 ∧ q 3 = setContRead (r 27) := by simpa [pairAt] using hclrF
  obtain ⟨hclrF0', hclrF1'⟩ : q 10 = q 2 ∧ q 11 = clearContRead (q 3) := by simpa [pairAt] using hclrF'
  obtain ⟨hadcF0, hadcF1⟩ : q 18 = r 18 ∧ q 19 = adcModeCC (r 19) := by simpa [pairAt] using hadcF
  obtain ⟨hsetF0, hsetF1⟩ : q 26 = q 10 ∧ q 27 = clearContRead (q 11) := by simpa [pairAt] using hsetF
  simp [hclrE0, hclrE1, hsetE0, hsetE1, hclrF0, hclrF1, hclrF0', hclrF1', hadcF0, hadcF1, hsetF0, hsetF1]

/-- Settles O23: the target is checked before any exchange. -/
theorem setmodeOtherTargetIsRefused : Obligations.SetmodeOtherTargetIsRefused := by
  intro a s h hrun
  rw [exec_setmode_otherTarget h s, raiseStatus_of_running hrun]
  rfl

end Sys2Proof.Claims
end

section
/-! SUPPORT. The sample interpreter as arithmetic (R70), the bytes of the filter register (R53), and each command of the
conversion reader case by case: RDSAMPLE in each mode (R71), SETRATE in range and out of range (R72), RDYQ as the effect
of its one event (R74). -/

namespace Sys2Proof.Claims

open Sys2Proof.Machine

/-! ## The sample interpreter (R70) -/

/-- `raw10` as a sum: two bits below the eight of byte 0, so the two parts do not overlap. -/
theorem raw10_eq_sum (r0 r1 : Byte) : raw10 r0 r1 = r0.toNat * 4 + r1.toNat % 4 := by
  have hlow : r1.toNat &&& 0x03 = r1.toNat % 4 := Nat.and_two_pow_sub_one_eq_mod r1.toNat 2
  have hfits : r1.toNat % 4 < 2 ^ 2 := Nat.mod_lt _ (by decide)
  rw [raw10, hlow, ← Nat.shiftLeft_add_eq_or_of_lt hfits, Nat.shiftLeft_eq]

theorem raw10_le (r0 r1 : Byte) : raw10 r0 r1 ≤ 1023 := by
  rw [raw10_eq_sum]
  omega

theorem toSigned_eq (r0 r1 r2 : Byte) :
    toSigned r0 r1 r2 = (((r0.toNat * 4 + r1.toNat % 4 : Nat) : Int) - 512) * 2 := by
  rw [toSigned, raw10_eq_sum]

theorem toSigned_even (r0 r1 r2 : Byte) : toSigned r0 r1 r2 % 2 = 0 := Int.mul_emod_left _ 2

theorem toSigned_bounds (r0 r1 r2 : Byte) : -1024 ≤ toSigned r0 r1 r2 ∧ toSigned r0 r1 r2 ≤ 1022 := by
  have hraw := raw10_le r0 r1
  unfold toSigned
  omega

/-- 16 bits hold every result, so the pattern presents it exactly (R70, D23). -/
theorem toInt_signedValue (r0 r1 r2 : Byte) : (signedValue r0 r1 r2).toInt = toSigned r0 r1 r2 := by
  obtain ⟨hlow, hhigh⟩ := toSigned_bounds r0 r1 r2
  exact BitVec.toInt_ofInt_eq_self (by decide) (by omega) (by omega)

theorem signedValue_eq (r0 r1 r2 : Byte) :
    signedValue r0 r1 r2 = BitVec.ofInt 16 ((((r0.toNat * 4 + r1.toNat % 4 : Nat) : Int) - 512) * 2) := by
  rw [signedValue, toSigned_eq]

/-- What a sample read answers, from the bytes its three fillers received (R71). -/
theorem sampleFields_map_range (r : Nat → Byte) :
    sampleFields ((List.range 3).map r) =
      { d0 := r 0
        d1 := r 1
        d2 := r 2
        value := BitVec.ofInt 16 (((((r 0).toNat * 4 + (r 1).toNat % 4 : Nat) : Int) - 512) * 2) } := by
  simp [sampleFields, byteAt_map_range, signedValue_eq]

/-! ## RDSAMPLE in each mode (R71) -/

theorem exec_rdsample_unknown {s : State} (h : s.mode = .unknown) :
    exec .rdsample s = .next (raiseStatus .modeUnset s) := by simp only [exec, execRdsample, h]

theorem exec_rdsample_cr {s : State} (h : s.mode = .cr) :
    exec .rdsample s = .next (respond (sampleFields (xchgs (List.replicate 3 0x00#8) s).1)
      (xchgs (List.replicate 3 0x00#8) s).2) := by simp only [exec, execRdsample, h]

/-- CC and SC read the data register in the same way. -/
theorem exec_rdsample_addressed {s : State} (h : s.mode = .cc ∨ s.mode = .sc) :
    exec .rdsample s = .next (respond (sampleFields (memRead s.cfg.addrData 3 s).1)
      (memRead s.cfg.addrData 3 s).2) := by
  obtain hcc | hsc := h
  · simp only [exec, execRdsample, hcc]
  · simp only [exec, execRdsample, hsc]

/-! ## The bytes of the filter register (R53) -/

/-- Under WORD13 the two bytes are one 16-bit value: the mask and the code, each split at the byte boundary. -/
theorem filterBytes_word13 (code v0 v1 : Byte) :
    filterByte0 .word13 v0 ++ filterByte1 .word13 code v1 = ((v0 ++ v1) &&& 0xE000#16) ||| code.setWidth 16 := by
  have hmask : 0xE000#16 = 0xE0#8 ++ 0x00#8 := rfl
  have hcode : code.setWidth 16 = 0x00#8 ++ code := BitVec.setWidth_eq_append (by decide)
  rw [hmask, hcode, BitVec.and_append, BitVec.or_append]
  simp [filterByte0, filterByte1]

/-- Under BYTE5 a code in range is its own low five bits. -/
theorem filterByte1_byte5 {code : Byte} (h : code.toNat ≤ 0x1F) (v1 : Byte) :
    filterByte1 .byte5 code v1 = (v1 &&& 0xE0#8) ||| code := by
  have hcode : code &&& 0x1F#8 = code :=
    BitVec.eq_of_toNat_eq (Nat.and_two_pow_sub_one_of_lt_two_pow (n := 5) (Nat.lt_succ_of_le h))
  rw [filterByte1, hcode]

/-! ## SETRATE, in range and out of range (R72) -/

theorem rateInRange_word13 {c : Config} (hc : c.ratePacking = .word13) (code : Byte) :
    rateInRange c.ratePacking code = true := by
  rw [hc]
  rfl

theorem rateInRange_byte5 {c : Config} (hc : c.ratePacking = .byte5) (code : Byte) :
    rateInRange c.ratePacking code = true ↔ code.toNat ≤ 0x1F := by
  rw [hc]
  exact decide_eq_true_iff

/-- A running SETRATE with a code in range is one read-modify-write of the filter register, and ends in the state the
statements name. -/
theorem setrate_ended {code : Byte} {s : State} (hrange : rateInRange s.cfg.ratePacking code = true)
    (hrun : Running (.setrate code) s) :
    ∃ r : Nat → Byte, Hears s 8 r ∧
      exec (.setrate code) s = .next (ended s
        (rmwEvents s.cfg.frameByte (s.cfg.addrFilt0.setWidth 8) r 0 (filterByte0 s.cfg.ratePacking (r 2))
          (filterByte1 s.cfg.ratePacking code (r 3))) 8 (respWord .ok 0x8#4 {})) := by
  obtain ⟨r, hr, hm⟩ :=
    modify2_spec s.cfg.addrFilt0 (filterByte0 s.cfg.ratePacking) (filterByte1 s.cfg.ratePacking code) s
  refine ⟨r, hr, ?_⟩
  rw [exec, execSetrate, if_pos hrange, hm, respond_afterBus hrun]
  rfl

theorem exec_setrate_outOfRange {code : Byte} {s : State} (h : ¬ rateInRange s.cfg.ratePacking code = true) :
    exec (.setrate code) s = .next (raiseStatus .outOfRange s) := if_neg h

/-! ## The data-ready line (R74) -/

/-- The level RDYQ samples is the next level placed in State, if there is one (R9, R18). -/
theorem nextLevel_of_head {s : State} {b : Bool} (h : s.rdyIn[0]? = some b) : nextLevel s = b := by
  unfold nextLevel
  cases hl : s.rdyIn with
  | nil => simp [hl] at h
  | cons l ls => simpa [hl] using h

/-- A sample as its event and the level it uses up; it makes no exchange. -/
theorem readRdy_snd_eq_afterBus (s : State) :
    (readRdy s).2 = { afterBus s [.rdy (nextLevel s)] with rdyIn := s.rdyIn.drop 1 } := by
  simp [readRdy, afterBus]

/-- The response does not look at the levels to come and leaves them as they are. -/
theorem respond_withRdyIn (f : RespFields) (ls : List Bool) (s : State) :
    respond f { s with rdyIn := ls } = { respond f s with rdyIn := ls } := rfl

end Sys2Proof.Claims
end

section
/-! CLAIMS. The obligations about the conversion reader, the data rate, the sample interpreter and the data-ready query
(43_conversion.md). -/

namespace Sys2Proof.Claims

open Sys2Proof.Machine

/-- Settles O26: the two exchanges of the addressing come first, so the fillers receive `r 2` and on. -/
theorem rdsampleAddressesTheDataRegister : Obligations.RdsampleAddressesTheDataRegister := by
  intro s hmode hrun
  obtain ⟨r, hr, hm⟩ := memRead_spec s.cfg.addrData 3 s
  refine ⟨r, hr, ?_⟩
  rw [exec_rdsample_addressed hmode, hm, sampleFields_map_range, respond_afterBus hrun]
  rfl

/-- Settles O27: the three fillers are the first exchanges of the command, so they receive `r 0` and on. -/
theorem rdsampleInContinuousReadSendsNoAddress : Obligations.RdsampleInContinuousReadSendsNoAddress := by
  intro s hmode hrun
  obtain ⟨r, hr, hx⟩ := xchgs_spec (List.replicate 3 0x00#8) s
  refine ⟨r, hr, ?_⟩
  rw [exec_rdsample_cr hmode, hx, List.length_replicate, sampleFields_map_range, respond_afterBus hrun]
  rfl

/-- Settles O29: every code is in range under WORD13. -/
theorem setrateWord13KeepsTheTopThreeBits : Obligations.SetrateWord13KeepsTheTopThreeBits := by
  intro code s hpack hrun
  obtain ⟨r, hr, hexec⟩ := setrate_ended (rateInRange_word13 hpack code) hrun
  rw [hpack] at hexec
  exact ⟨r, hr, _, _, filterBytes_word13 code (r 2) (r 3), hexec⟩

/-- Settles O30: byte 0 is written back as read. -/
theorem setrateByte5ReplacesFiveBits : Obligations.SetrateByte5ReplacesFiveBits := by
  intro code s hpack hcode hrun
  obtain ⟨r, hr, hexec⟩ := setrate_ended ((rateInRange_byte5 hpack code).mpr hcode) hrun
  rw [hpack, filterByte1_byte5 hcode] at hexec
  exact ⟨r, hr, hexec⟩

/-- Settles O32: the closed form, then what follows from its ten-bit `raw10`. -/
theorem toSignedIsExactEvenAndBounded : Obligations.ToSignedIsExactEvenAndBounded := by
  intro r0 r1 r2
  obtain ⟨hlow, hhigh⟩ := toSigned_bounds r0 r1 r2
  exact ⟨toSigned_eq r0 r1 r2, toSigned_even r0 r1 r2, hlow, hhigh, toInt_signedValue r0 r1 r2⟩

/-- Settles O28: MODE is checked before any exchange. -/
theorem rdsampleWithoutModeIsRefused : Obligations.RdsampleWithoutModeIsRefused := by
  intro s hmode hrun
  rw [exec_rdsample_unknown hmode, raiseStatus_of_running hrun]
  rfl

/-- Settles O31: the range check fails before any exchange. -/
theorem setrateByte5LargeCodeIsRefused : Obligations.SetrateByte5LargeCodeIsRefused := by
  intro code s hpack hcode hrun
  have hrange : ¬ rateInRange s.cfg.ratePacking code = true :=
    fun h => Nat.not_le_of_lt hcode ((rateInRange_byte5 hpack code).mp h)
  rw [exec_setrate_outOfRange hrange, raiseStatus_of_running hrun]
  rfl

/-- Settles O33: a response after no bus event at all. -/
theorem tosignedAnswersTheSignedValue : Obligations.TosignedAnswersTheSignedValue := by
  intro b0 b1 b2 s hrun
  have hend := respond_afterBus hrun { value := signedValue b0 b1 b2 } []
  rw [afterBus_nil, signedValue_eq] at hend
  rw [exec, execTosigned, signedValue_eq, hend]
  rfl

/-- Settles O34: the sample is one event that makes no exchange, so VIOL and the bytes to come stay. -/
theorem rdyqSamplesTheLineOnce : Obligations.RdyqSamplesTheLineOnce := by
  intro s hrun
  have hflag : (!(readRdy s).1) = if nextLevel s = false then true else false := by
    cases h : nextLevel s <;> simp [readRdy, h]
  refine ⟨nextLevel s, fun _ hb => nextLevel_of_head hb, ?_⟩
  rw [exec, execRdyq, hflag, readRdy_snd_eq_afterBus, respond_withRdyIn, respond_afterBus hrun]
  rfl

end Sys2Proof.Claims
end

section
/-! SUPPORT. INIT piece by piece (R76): the identity check on numbers (R54, R75), the transport start and the toggle as
their events, and the exchanges on the ready bus they leave, which set no violation (R17). -/

namespace Sys2Proof.Claims

open Sys2Proof.Machine

/-! ## The identity check (R54, R75) -/

/-- The mask keeps the high nibble: it is what stays of a byte shifted right and back by four. -/
theorem highNibbleMask_eq_iff (b : Byte) : b &&& 0xF0#8 = 0xD0#8 ↔ b.toNat / 16 = 0xD := by
  have hmask : b &&& 0xF0#8 = b >>> 4 <<< 4 := (BitVec.shiftLeft_ushiftRight (x := b) (n := 4)).symm
  have hlt := b.isLt
  rw [hmask, ← BitVec.toNat_inj, BitVec.toNat_shiftLeft, BitVec.toNat_ushiftRight, Nat.shiftLeft_eq,
    Nat.shiftRight_eq_div_pow, BitVec.toNat_ofNat]
  omega

theorem idValid_eq (id0 id1 : Byte) : idValid id0 id1 = decide (id0.toNat = 0x30 ∧ id1.toNat / 16 = 0xD) := by
  have hbyte0 : id0 = 0x30#8 ↔ id0.toNat = 0x30 := BitVec.toNat_inj.symm
  rw [Bool.eq_iff_iff, decide_eq_true_iff, ← hbyte0, ← highNibbleMask_eq_iff]
  simp [idValid]

/-! ## The ready bus (R16, R17, R61) -/

/-- `s` with the chip-select asserted and the transport started, where an exchange sets no violation. -/
def onReadyBus (s : State) : State := { s with xcfg := true, csN := false }

/-- The bus events of INIT before its identity read: the start, the deassertion, the wait and the reassertion. -/
def initEvents (s : State) : List BusEvent := [.cfg, .cs true, .wait s.cfg.gap, .cs false]

/-- The start and the toggle as their events and the levels they leave (R61, R76). -/
theorem resyncLine_xportBegin (s : State) :
    resyncLine (xportBegin s) = onReadyBus (afterBus s (initEvents s)) := by
  rw [resyncLine_eq_afterBus]
  simp [xportBegin, emit, afterBus, onReadyBus, initEvents]

/-- Exchanges on a ready bus leave VIOL as it is (R17). -/
theorem afterBus_onReadyBus (s : State) (evs : List BusEvent) :
    afterBus (onReadyBus s) evs = onReadyBus { afterBus s evs with viol := s.viol } := by
  simp [afterBus, onReadyBus]

/-- The response does not look at the levels of the bus or at VIOL and leaves them as they are. -/
theorem respond_onReadyBus (f : RespFields) (v : Viol) (s : State) :
    respond f (onReadyBus { s with viol := v }) = onReadyBus { respond f s with viol := v } := rfl

/-! ## INIT (R76) -/

/-- What INIT answers, from the bytes the two fillers of its identity read received. -/
theorem exec_init_of_read {s t : State} {r : Nat → Byte}
    (hread : memRead s.cfg.addrId 2 (onReadyBus (afterBus s (initEvents s))) =
      ((List.range 2).map (fun j => r (2 + j)), t)) :
    exec .init s = .next (respond
      { flag := decide ((r 2).toNat = 0x30 ∧ (r 3).toNat / 16 = 0xD), d0 := r 2, d1 := r 3 } t) := by
  have hcfg : (onReadyBus (afterBus s (initEvents s))).cfg = s.cfg := rfl
  simp [exec, execInit, resyncLine_xportBegin, hcfg, hread, byteAt_map_range fun j => r (2 + j), idValid_eq]

end Sys2Proof.Claims
end

section
/-! CLAIMS. The obligation about the initialisation (44_init.md). -/

namespace Sys2Proof.Claims

open Sys2Proof.Machine

/-- Settles O35: the start and the toggle make no exchange, so the identity read is the first one and is made on a ready
bus; its two fillers receive `r 2` and `r 3`. -/
theorem initReadsAndJudgesTheIdentity : Obligations.InitReadsAndJudgesTheIdentity := by
  intro s hrun
  obtain ⟨r, hr, hread⟩ := memRead_spec s.cfg.addrId 2 (onReadyBus (afterBus s (initEvents s)))
  -- The events before the read use up no answer.
  have hhears : Hears s 4 r := hr
  refine ⟨r, hhears, ?_⟩
  rw [exec_init_of_read hread, afterBus_onReadyBus, afterBus_afterBus, respond_onReadyBus, respond_afterBus hrun]
  rfl

end Sys2Proof.Claims
end

section
/-! SUPPORT. The status every word answers (R77, R80), for a decoded command and then for the word in CMD: `exec_answers` and
`runCommand_answers` tie it to the meanings, `expectedCode_eq` to the table read from the word's fields. -/

namespace Sys2Proof.Claims

open Sys2Proof.Machine

/-! ## The status of a command -/

/-- The status of a decoded command: its operand check, or the check of MODE, which only RDSAMPLE makes (R58, R59, R62, R67,
R71, R72, R80). -/
def commandStatus (i : Instr) (s : State) : Status :=
  match i with
  | .wrreg a len _ _ _ => if 0x3F < a.toNat ∨ len = 0#2 then .outOfRange else .ok
  | .rdreg a len => if 0x3F < a.toNat ∨ len = 0#2 then .outOfRange else .ok
  | .reset => .ok
  | .resync => .ok
  | .setch a _ => if a.toNat < 0x10 ∨ 0x1F < a.toNat then .outOfRange else .ok
  | .setmode a => if 0x02 < a.toNat then .invalidMode else .ok
  | .rdsample => if s.mode = .unknown then .modeUnset else .ok
  | .setrate a => if s.cfg.ratePacking = .byte5 ∧ 0x1F < a.toNat then .outOfRange else .ok
  | .tosigned _ _ _ => .ok
  | .init => .ok
  | .rdyq => .ok

/-- The outcome `o` at `s` answers the status `st`: another than OK by raising it at `s` itself, OK by responding after some
work (R21, R78). -/
inductive Answers (s : State) : Status → Host.Outcome State Fault Refusal → Prop
  | refused {st : Status} (refusal : st ≠ .ok) : Answers s st (.next (raiseStatus st s))
  | completed (f : RespFields) (u : State) : Answers s .ok (.next (respond f u))

/-- A command with one check answers by it. -/
theorem answers_of_check {s : State} {p : Prop} [Decidable p] {st : Status} {o : Host.Outcome State Fault Refusal}
    (hst : st ≠ .ok) (hrefused : p → o = .next (raiseStatus st s)) (hok : ¬ p → ∃ f u, o = .next (respond f u)) :
    Answers s (if p then st else .ok) o := by
  by_cases hp : p
  · rw [if_pos hp, hrefused hp]
    exact .refused hst
  · obtain ⟨f, u, ho⟩ := hok hp
    rw [if_neg hp, ho]
    exact .completed f u

/-- The targets up to CR name a mode (R67). -/
theorem targetMode?_of_le {a : Byte} (h : a.toNat ≤ 0x02) : ∃ m, targetMode? a = some m := by
  unfold targetMode?
  split
  next => exact ⟨.cc, rfl⟩
  next => exact ⟨.sc, rfl⟩
  next => exact ⟨.cr, rfl⟩
  next h0 h1 h2 =>
    have hne : a.toNat ≠ 0 ∧ a.toNat ≠ 1 ∧ a.toNat ≠ 2 := ⟨h0, h1, h2⟩
    omega

/-- The range check of R72, for either packing. -/
theorem rateInRange_iff (p : RatePacking) (code : Byte) :
    rateInRange p code = true ↔ ¬ (p = .byte5 ∧ 0x1F < code.toNat) := by
  cases p <;> simp [rateInRange]

/-- Every command answers its status: one case per command, by its one check. -/
theorem exec_answers (i : Instr) (s : State) : Answers s (commandStatus i s) (exec i s) := by
  cases i with
  | wrreg a len b0 b1 b2 =>
    refine answers_of_check (by decide) (exec_wrreg_outOfRange b0 b1 b2 s) fun h => ?_
    obtain ⟨ha, hlen⟩ := not_or.1 h
    exact ⟨_, _, exec_wrreg_inRange b0 b1 b2 s (Nat.not_lt.1 ha) hlen⟩
  | rdreg a len =>
    refine answers_of_check (by decide) (exec_rdreg_outOfRange s) fun h => ?_
    obtain ⟨ha, hlen⟩ := not_or.1 h
    exact ⟨_, _, exec_rdreg_inRange s (Nat.not_lt.1 ha) hlen⟩
  | setch a en =>
    refine answers_of_check (by decide) (exec_setch_outOfRange en s) fun h => ?_
    obtain ⟨hlow, hhigh⟩ := not_or.1 h
    obtain ⟨r, -, hexec⟩ := exec_setch_inRange en s (Nat.not_lt.1 hlow) (Nat.not_lt.1 hhigh)
    exact ⟨_, _, hexec⟩
  | setmode a =>
    refine answers_of_check (by decide) (exec_setmode_otherTarget · s) fun h => ?_
    obtain ⟨m, hm⟩ := targetMode?_of_le (Nat.not_lt.1 h)
    obtain ⟨r, -, hexec⟩ := exec_setmode_of_target hm s
    exact ⟨_, _, hexec⟩
  | rdsample =>
    refine answers_of_check (by decide) exec_rdsample_unknown fun h => ?_
    cases hm : s.mode with
    | cc => exact ⟨_, _, exec_rdsample_addressed (.inl hm)⟩
    | sc => exact ⟨_, _, exec_rdsample_addressed (.inr hm)⟩
    | cr => exact ⟨_, _, exec_rdsample_cr hm⟩
    | unknown => exact absurd hm h
  | setrate code =>
    have hrange := rateInRange_iff s.cfg.ratePacking code
    exact answers_of_check (by decide) (fun h => exec_setrate_outOfRange fun hin => hrange.1 hin h)
      fun h => ⟨_, _, if_pos (hrange.2 h)⟩
  | reset | resync | tosigned | init | rdyq => exact .completed _ _

/-! ## The status of the word in CMD -/

/-- ILLEGAL_CMD comes before every check of a command (R80). -/
def wordStatus (s : State) : Status :=
  match decode s.cmd with
  | some i => commandStatus i s
  | none => .illegalCmd

theorem wordStatus_of_decode {s : State} {i : Instr} (h : decode s.cmd = some i) : wordStatus s = commandStatus i s := by
  simp [wordStatus, h]

theorem wordStatus_of_illegal {s : State} (h : decode s.cmd = none) : wordStatus s = .illegalCmd := by
  simp [wordStatus, h]

theorem runCommand_answers (s : State) : Answers s (wordStatus s) (runCommand s) := by
  cases hdecode : decode s.cmd with
  | none =>
    rw [wordStatus_of_illegal hdecode, runCommand_of_illegal hdecode]
    exact .refused (by decide)
  | some i =>
    rw [wordStatus_of_decode hdecode, runCommand_of_decode hdecode]
    exact exec_answers i s

/-- RESP holds the code of the status answered (R21, R78). -/
theorem Answers.respStatus_eq {s t : State} {st : Status} (h : Answers s st (.next t)) :
    respStatus t.resp = statusCode st := by
  cases h <;> simp

/-- A status other than OK was raised at `s` (R78). -/
theorem Answers.eq_raiseStatus {s t : State} {st : Status} (h : Answers s st (.next t)) (hne : st ≠ .ok) :
    t = raiseStatus st s := by
  cases h with
  | refused => rfl
  | completed => exact absurd rfl hne

/-- On the engine's turn a running word answers its status; the turn used up has no part in it. -/
theorem step_answers {s t : State} {rest : List HostTurn} (hbusy : s.busy = true) (hturn : EngineMoves s rest)
    (h : step s = .next t) : Answers { s with hostIn := rest } (wordStatus s) (.next t) := by
  rw [← h, step_of_engineMoves hbusy hturn]
  exact runCommand_answers { s with hostIn := rest }

/-! ## The table of R80 -/

/-- The codes of a command with one check (R77). -/
theorem statusCode_check (p : Prop) [Decidable p] (st : Status) :
    statusCode (if p then st else .ok) = if p then statusCode st else 0#8 := apply_ite ..

@[simp] theorem statusCode_values :
    statusCode .ok = 0#8 ∧ statusCode .outOfRange = 1#8 ∧ statusCode .invalidMode = 2#8 ∧ statusCode .modeUnset = 3#8 ∧
      statusCode .illegalCmd = 7#8 := ⟨rfl, rfl, rfl, rfl, rfl⟩

/-- Some row accepts exactly the words that decode (R43). -/
theorem exists_accepts_iff (w : Word64) : (∃ row ∈ opcodeRows, row.accepts w = true) ↔ decode w ≠ none := by
  obtain ⟨-, hcomplete⟩ := opcodeRowsAreDisjointAndComplete
  rw [ne_eq, ← hcomplete w]
  simp

theorem expectedCode_of_illegal {s : State} (h : decode s.cmd = none) : expectedCode s = statusCode .illegalCmd :=
  if_pos fun hrow => (exists_accepts_iff _).1 hrow h

/-- On the word of a command the table's rows of other operations do not apply, and its own reads the command's operands. -/
theorem expectedCode_of_decode {s : State} {i : Instr} (h : decode s.cmd = some i) :
    expectedCode s = statusCode (commandStatus i s) := by
  have hrow : ∃ row ∈ opcodeRows, row.accepts s.cmd = true := (exists_accepts_iff _).2 (by simp [h])
  simp only [expectedCode]
  rw [if_neg (not_not.2 hrow), ← encode_of_decode h]
  cases i with
  | wrreg | rdreg | setch | setrate | rdsample =>
    simp [encode, commandStatus, statusCode_check]
  | setmode a =>
    have htarget : 0x02 < a.toNat ↔ a.toNat ≠ 0 ∧ a.toNat ≠ 1 ∧ a.toNat ≠ 2 := by omega
    simp [encode, commandStatus, statusCode_check, htarget]
  | reset | resync | tosigned | init | rdyq => simp [encode, commandStatus]

theorem expectedCode_eq (s : State) : expectedCode s = statusCode (wordStatus s) := by
  cases hdecode : decode s.cmd with
  | none => rw [expectedCode_of_illegal hdecode, wordStatus_of_illegal hdecode]
  | some i => rw [expectedCode_of_decode hdecode, wordStatus_of_decode hdecode]

end Sys2Proof.Claims
end

section
/-! CLAIMS. The obligations about the statuses and about refusal (60_exceptions.md R78, R80). -/

namespace Sys2Proof.Claims

open Sys2Proof.Machine

/-- Settles O38: the step answers the status of the word, and the table gives its code. -/
theorem everyWordAnswersTheTableStatus : Obligations.EveryWordAnswersTheTableStatus := by
  intro s t rest hbusy hturn h
  rw [(step_answers hbusy hturn h).respStatus_eq, expectedCode_eq]

/-- Settles O39: a status other than OK is raised before the command did anything. -/
theorem refusedWordChangesOnlyTheResponse : Obligations.RefusedWordChangesOnlyTheResponse := by
  intro s t rest hbusy hturn h hne
  have hanswers := step_answers hbusy hturn h
  have hst : wordStatus s ≠ .ok := by
    rwa [hanswers.respStatus_eq, ne_eq, statusCode_eq_zero] at hne
  exact ⟨wordStatus s, hst, hanswers.eq_raiseStatus hst⟩

end Sys2Proof.Claims
end

section
/-! SUPPORT. The chip-select toggle inside the events of RESYNC and INIT (R61, R76) and the least time between its two edges
(R86, R97). -/

namespace Sys2Proof.Claims

open Sys2Proof.Machine

/-- The toggle as the events it emits (R61). -/
theorem resyncLine_trace (s : State) :
    (resyncLine s).trace = s.trace ++ [.cs true, .wait s.cfg.gap, .cs false] := by
  rw [resyncLine_eq_afterBus]
  rfl

/-- Exchanges drive no chip-select edge (R8). -/
theorem cs_notMem_of_onBus {s u : State} {evs : List BusEvent} {n : Nat} (h : OnBus s u evs n) (l : Bool) :
    .cs l ∉ evs := by
  intro hmem
  obtain ⟨out, inp, hx⟩ := h.only _ hmem
  cases hx

/-- RESYNC and INIT make one toggle, and every other event of theirs drives no chip-select edge (R61, R76). -/
theorem exec_toggle_trace {i : Instr} {s t : State} (hi : i = .resync ∨ i = .init) (h : exec i s = .next t) :
    ∃ pre post, t.trace = s.trace ++ (pre ++ .cs true :: [.wait s.cfg.gap] ++ .cs false :: post) ∧
      ∀ l, .cs l ∉ pre ∧ .cs l ∉ post := by
  obtain rfl | rfl := hi
  case inl =>
    cases h
    exact ⟨[], [], resyncLine_trace s, by simp⟩
  case inr =>
    cases h
    obtain ⟨evs, hread⟩ := memRead_onBus (resyncLine (xportBegin s)).cfg.addrId 2 (resyncLine (xportBegin s))
    refine ⟨[.cfg], evs, ?_, fun l => ⟨by simp, cs_notMem_of_onBus hread l⟩⟩
    rw [respond_trace, hread.emits.trace, resyncLine_trace]
    simp

/-- `P_GAP` is an integer at least 1 (R4, R97). -/
theorem one_le_gap (c : Config) : 1 ≤ c.gap := Nat.le_add_left 1 c.gapExtra

/-- A wait of `P_GAP` takes at least one time unit, whatever its length (R97). -/
theorem timeUnit_le_minDuration_gap (c : Config) : Config.timeUnit ≤ minDuration (.wait c.gap) :=
  Nat.le_mul_of_pos_left _ (one_le_gap c)

/-- STAT right after the engine reset: CS_N and both bits of MODE are 1, every other bit is 0 (R22, R92). -/
theorem statWord_reset : statWord State.reset = 0x0000000E#32 := by decide

end Sys2Proof.Claims
end

section
/-! CLAIMS. The obligations about the reset state and about the wait between the chip-select edges
(70_reset_and_hazards.md R92, R97). -/

namespace Sys2Proof.Claims

open Sys2Proof.Machine

/-- Settles O15: between the two edges of the toggle stands the wait of `P_GAP` and nothing else. -/
theorem resyncGapLastsAtLeastOneTimeUnit : Obligations.ResyncGapLastsAtLeastOneTimeUnit := by
  intro i s t evs hi hexec htrace
  obtain ⟨pre, post, htoggle, hcs⟩ := exec_toggle_trace hi hexec
  have hevs : evs = pre ++ .cs true :: [.wait s.cfg.gap] ++ .cs false :: post :=
    List.append_cancel_left (htrace.symm.trans htoggle)
  have hdur : ([BusEvent.wait s.cfg.gap].map minDuration).sum = minDuration (.wait s.cfg.gap) := by simp
  refine ⟨pre, [.wait s.cfg.gap], post, hevs, fun l => ?_, one_le_gap s.cfg, ?_, ?_⟩
  · obtain ⟨hpre, hpost⟩ := hcs l
    exact ⟨hpre, by simp, hpost⟩
  · exact hdur.ge
  · exact (timeUnit_le_minDuration_gap s.cfg).trans hdur.ge

/-- Settles O47, field by field; STAT is packed from them. -/
theorem resetStateHoldsTheSpecValues : Obligations.ResetStateHoldsTheSpecValues :=
  ⟨rfl, rfl, rfl, rfl, rfl, rfl, statWord_reset, rfl⟩

end Sys2Proof.Claims
end

section
/-! SUPPORT. What one step does with the turn at the head, as equations (R12, R20, R22, R90), and the bits of STAT (R22). -/

namespace Sys2Proof.Claims

open Sys2Proof.Machine

/-! ## The turn of a step -/

theorem step_of_turn {s : State} {turn : HostTurn} {ts : List HostTurn} (h : s.hostIn = turn :: ts) :
    step s = takeTurn turn { s with hostIn := ts } := by
  simp [step, turnStep, h]

/-- The engine's turn with no command holds the state, less the turn used up (R89, R90). -/
theorem step_of_free {s : State} {rest : List HostTurn} (hfree : s.busy = false) (hturn : EngineMoves s rest) :
    step s = .next { s with hostIn := rest } := by
  obtain ⟨hnil, rfl⟩ | hidle := hturn
  · have hs : { s with hostIn := [] } = s := by rw [← hnil]
    rw [hs]
    simp [step, turnStep, engineTurn, hnil, hfree]
  · simp [step_of_turn hidle, takeTurn, engineTurn, hfree]

/-- The engine's turn runs the accepted command (R20, R43). -/
theorem step_of_running {i : Instr} {s : State} {rest : List HostTurn} (hrun : Running i s) (hturn : EngineMoves s rest) :
    step s = exec i { s with hostIn := rest } := by
  obtain ⟨hbusy, hdecode⟩ := hrun
  rw [step_of_engineMoves hbusy hturn]
  exact runCommand_of_decode hdecode

theorem hostWrite_of_free {s : State} (w : Word64) (h : s.busy = false) :
    hostWrite w s = { s with cmd := w, busy := true } := by
  simp [hostWrite, h]

theorem hostWrite_of_busy {s : State} (w : Word64) (h : s.busy = true) :
    hostWrite w s = { s with viol := { s.viol with overrun := true } } := by
  simp [hostWrite, h]

theorem resetTurn_of_free {s : State} (k : Nat) (h : s.busy = false) : resetTurn k s = .next (engineReset s) := by
  simp [resetTurn, h]

/-- The reset in a running command keeps the first `k` events of what the command would have left (R90, U21). -/
theorem resetTurn_of_busy {s full : State} (k : Nat) (hbusy : s.busy = true) (hrun : runCommand s = .next full) :
    resetTurn k s = .next (abandon ((full.trace.drop s.trace.length).take k) s) := by
  simp [resetTurn, hbusy, hrun]

/-- A word placed by hand is next for the engine: an idle turn stands before the outside turns, if there are any. -/
theorem engineMoves_withAccepted (w : Word64) (s : State) : EngineMoves (withAccepted w s) s.hostIn := by
  cases hturns : s.hostIn with
  | nil => exact .inl ⟨by simp [hturns, engineFirst], rfl⟩
  | cons turn ts => exact .inr (by simp [hturns, engineFirst])

theorem withFetchWord_eq_withAccepted (s : State) (w : Word64) : s.withFetchWord 64 w.toNat = withAccepted w s := by
  rw [State.withFetchWord, Nat.mod_eq_of_lt w.isLt, BitVec.ofNat_toNat, BitVec.setWidth_eq]

/-! ## The bits of STAT -/

/-- Bit `i` of STAT: it lies in the first field, from the low end up, that is wider than the offset of `i` in it (R22). -/
theorem getLsbD_statWord (s : State) (i : Nat) :
    (statWord s).getLsbD i =
      if i < 1 then (BitVec.ofBool s.busy).getLsbD i
      else if i - 1 < 2 then (modeBits s.mode).getLsbD (i - 1)
      else if i - 3 < 1 then (BitVec.ofBool s.csN).getLsbD (i - 3)
      else if i - 4 < 1 then (BitVec.ofBool s.xcfg).getLsbD (i - 4)
      else if i - 5 < 3 then (violBits s.viol).getLsbD (i - 5)
      else false := by
  unfold statWord
  iterate 5 rw [BitVec.getLsbD_append]
  simp only [BitVec.getLsbD_zero, Nat.sub_sub, Nat.reduceAdd]

/-- Bits 0, 1 and 2 of VIOL (R17). -/
@[simp] theorem violBits_getElem (v : Viol) :
    (violBits v)[0] = v.unsync ∧ (violBits v)[1] = v.nocfg ∧ (violBits v)[2] = v.overrun := by
  obtain ⟨unsync, nocfg, overrun⟩ := v
  revert unsync nocfg overrun
  decide

/-- Bits [2:1] hold MODE (R22). -/
theorem statWord_mode (s : State) : (statWord s).extractLsb' 1 2 = modeBits s.mode := by
  ext i hi
  simp only [← BitVec.getLsbD_eq_getElem, BitVec.getLsbD_extractLsb', getLsbD_statWord]
  interval_cases i <;> simp

/-- Bits [31:8] are 0 (R22). -/
theorem statWord_reserved (s : State) : (statWord s).extractLsb' 8 24 = 0#24 := by
  ext i hi
  simp only [← BitVec.getLsbD_eq_getElem, BitVec.getLsbD_extractLsb', getLsbD_statWord]
  interval_cases i <;> simp

/-- The engine reset leaves in the registers STAT shows what they hold right after reset (R90, R92). -/
theorem statWord_engineReset (s : State) : statWord (engineReset s) = 0x0000000E#32 :=
  Eq.trans (b := statWord State.reset) rfl statWord_reset

end Sys2Proof.Claims
end

section
/-! CLAIMS. The obligations about the single turns of a step and about STAT (10_state.md R20 to R22, 70_reset_and_hazards.md
R90). -/

namespace Sys2Proof.Claims

open Sys2Proof.Machine

/-- Settles O43: both kinds of the engine's turn, by `step_of_running`. -/
theorem stepRunsTheDecodedCommand : Obligations.StepRunsTheDecodedCommand := by
  intro i s hrun
  refine ⟨fun hnil => ?_, fun ts hidle => step_of_running hrun (.inr hidle)⟩
  have hstep := step_of_running hrun (.inl ⟨hnil, rfl⟩)
  rwa [← hnil] at hstep

/-- Settles O44: a placed word is running, and the engine moves first. -/
theorem placedWordRunsOnTheNextStep : Obligations.PlacedWordRunsOnTheNextStep := by
  intro s w i hdecode
  have hrun : Running i (withAccepted w s) := ⟨rfl, hdecode⟩
  exact ⟨s.hostIn, by rw [withFetchWord_eq_withAccepted, step_of_running hrun (engineMoves_withAccepted w s)]; rfl⟩

/-- Settles O45, from the two branches of `hostWrite`. -/
theorem hostWriteIsAcceptedOrOverruns : Obligations.HostWriteIsAcceptedOrOverruns := by
  intro s w ts hturn
  have hstep : step s = .next (hostWrite w { s with hostIn := ts }) := step_of_turn hturn
  exact ⟨fun hfree => hstep.trans (congrArg _ (hostWrite_of_free (s := { s with hostIn := ts }) w hfree)),
    fun hbusy => hstep.trans (congrArg _ (hostWrite_of_busy (s := { s with hostIn := ts }) w hbusy))⟩

/-- Settles O46: the two reads are turns of their own, and the idle engine holds its state (`step_of_free`). -/
theorem hostReadsAndIdlingChangeNothing : Obligations.HostReadsAndIdlingChangeNothing := by
  refine ⟨fun s ts hturn => step_of_turn hturn, fun s ts hturn => step_of_turn hturn, fun s hnil hfree => ?_,
    fun s ts hidle hfree => step_of_free hfree (.inr hidle)⟩
  have hstep := step_of_free hfree (.inl ⟨hnil, rfl⟩)
  rwa [← hnil] at hstep

/-- Settles O48: with BUSY = 0 the turn is `engineReset`. -/
theorem engineResetWhileIdle : Obligations.EngineResetWhileIdle := by
  intro s k ts hturn hfree
  have hstep : step s = .next (engineReset { s with hostIn := ts }) :=
    (step_of_turn hturn).trans (resetTurn_of_free k hfree)
  exact ⟨_, hstep, rfl, rfl, rfl, rfl, rfl, rfl, statWord_engineReset _, rfl, rfl, rfl, rfl, rfl, rfl, rfl⟩

/-- Settles O37: the layout bit by bit from `getLsbD_statWord`, the read from its turn. -/
theorem statusViewLayout : Obligations.StatusViewLayout := by
  refine ⟨fun s => ?_, statWord_reset, fun s ts hturn => step_of_turn hturn⟩
  refine ⟨?busy, ?mode, ?csN, ?xcfg, ?unsync, ?nocfg, ?overrun, statWord_reserved s⟩
  case mode =>
    rw [statWord_mode]
    cases s.mode <;> rfl
  all_goals
    rw [getLsbD_statWord]
    simp

end Sys2Proof.Claims
end

section
/-! SUPPORT. Every command and every step has a next state, which only appends answered events to the bus trace (R9, R10,
R38), and every step uses up the turn at the head, so that every run ends (R104, Part U). -/

namespace Sys2Proof.Claims

open Sys2Proof.Machine

/-! ## A next state, and its events -/

/-- Every command has a next state, and its events carry the outside's answers: a refused one has none, and one that
completes responds after its work, which `exec_shape` gives. -/
theorem exec_next_emits (i : Instr) (s : State) : ∃ t evs, exec i s = .next t ∧ Emits s t evs := by
  obtain ⟨st, -, he⟩ | ⟨f, u, evs, he, hemits, -⟩ := exec_shape i s
  · exact ⟨_, [], he, by simp, trivial, by simp, by simp, rfl⟩
  · exact ⟨_, evs, he, hemits.trace, hemits.answers, hemits.rxIn, hemits.rdyIn, hemits.cfg⟩

/-- The same of the word in CMD, which is a command or is refused as illegal (R43). -/
theorem runCommand_next_emits (s : State) : ∃ t evs, runCommand s = .next t ∧ Emits s t evs := by
  cases hdecode : decode s.cmd with
  | none => exact ⟨_, [], runCommand_of_illegal hdecode, by simp, trivial, by simp, by simp, rfl⟩
  | some i =>
    rw [runCommand_of_decode hdecode]
    exact exec_next_emits i s

theorem runCommand_emits {s t : State} (h : runCommand s = .next t) : ∃ evs, Emits s t evs := by
  obtain ⟨u, evs, hu, hemits⟩ := runCommand_next_emits s
  cases hu.symm.trans h
  exact ⟨evs, hemits⟩

/-- The turns to come have no part in what is emitted. -/
theorem emits_withHostIn {s t : State} {evs : List BusEvent} (h : Emits s t evs) (ts us : List HostTurn) :
    Emits { s with hostIn := ts } { t with hostIn := us } evs :=
  ⟨h.trace, h.answers, h.rxIn, h.rdyIn, h.cfg⟩

/-- The events of a command are what its next state has on the trace more. -/
theorem drop_trace_of_emits {s t : State} {evs : List BusEvent} (h : Emits s t evs) : t.trace.drop s.trace.length = evs := by
  rw [h.trace, List.drop_left]

/-- Answers are given event by event: a first part of answered events is answered. -/
theorem envAnswers_take {rx : List Byte} {rdy : List Bool} {sofar evs : List BusEvent} (k : Nat)
    (h : EnvAnswers rx rdy sofar evs) : EnvAnswers rx rdy sofar (evs.take k) := by
  induction evs generalizing rx rdy sofar k with
  | nil => simpa using h
  | cons e es ih =>
    cases k with
    | zero => trivial
    | succ k =>
      rw [List.take_succ_cons]
      cases e with
      | xchg | rdy => exact ⟨h.1, ih k h.2⟩
      | cs | wait | cfg => exact ih k h

/-- The reset in a running command keeps the first `k` of the command's events (R90, U21). -/
theorem resetTurn_of_emits {s full : State} {evs : List BusEvent} (k : Nat) (hbusy : s.busy = true)
    (hrun : runCommand s = .next full) (h : Emits s full evs) :
    resetTurn k s = .next (abandon (evs.take k) s) := by
  rw [resetTurn_of_busy k hbusy hrun, drop_trace_of_emits h]

/-- A command abandoned after its first `k` events has emitted just those (R90). -/
theorem abandon_emits {s full : State} {evs : List BusEvent} (k : Nat) (h : Emits s full evs) :
    Emits s (abandon ((full.trace.drop s.trace.length).take k) s) (evs.take k) := by
  rw [drop_trace_of_emits h]
  exact ⟨rfl, envAnswers_take k h.answers, rfl, rfl, rfl⟩

/-- Every step only appends answered events: none, those of a command, or the first of them. -/
theorem step_emits {s t : State} (h : step s = .next t) : ∃ evs, Emits s t evs := by
  cases step_cases h with
  | idle | accept | overrun | readStat | readResp | resetIdle => exact ⟨[], by simp, trivial, by simp, by simp, rfl⟩
  | command _ _ hrun =>
    obtain ⟨evs, hemits⟩ := runCommand_emits hrun
    exact ⟨evs, emits_withHostIn hemits s.hostIn t.hostIn⟩
  | @resetRunning k _ _ _ _ hrun =>
    obtain ⟨evs, hemits⟩ := runCommand_emits hrun
    exact ⟨evs.take k, emits_withHostIn (abandon_emits k hemits) s.hostIn _⟩

/-! ## A step of every state -/

theorem engineTurn_next (s : State) : ∃ t, engineTurn s = .next t := by
  unfold engineTurn
  split
  · obtain ⟨t, -, hrun, -⟩ := runCommand_next_emits s
    exact ⟨t, hrun⟩
  · exact ⟨s, rfl⟩

theorem resetTurn_next (k : Nat) (s : State) : ∃ t, resetTurn k s = .next t := by
  cases hbusy : s.busy with
  | false => exact ⟨_, resetTurn_of_free k hbusy⟩
  | true =>
    obtain ⟨full, -, hrun, -⟩ := runCommand_next_emits s
    exact ⟨_, resetTurn_of_busy k hbusy hrun⟩

theorem step_next (s : State) : ∃ t, step s = .next t := by
  cases hturns : s.hostIn with
  | nil =>
    obtain ⟨t, ht⟩ := engineTurn_next s
    exact ⟨t, by simpa [step, turnStep, hturns] using ht⟩
  | cons turn ts =>
    rw [step_of_turn hturns]
    cases turn with
    | write w => exact ⟨_, rfl⟩
    | readStat => exact ⟨_, rfl⟩
    | readResp => exact ⟨_, rfl⟩
    | reset k => exact resetTurn_next k _
    | idle => exact engineTurn_next _

/-! ## The end of every run -/

theorem rest_eq_tail_of_engineMoves {s : State} {rest : List HostTurn} (h : EngineMoves s rest) : rest = s.hostIn.tail := by
  obtain ⟨hnil, rfl⟩ | hidle := h
  · rw [hnil]; rfl
  · rw [hidle]; rfl

/-- The word in CMD, run to its end, leaves BUSY 0 and the turns to come (R20, R21). -/
theorem busy_hostIn_of_commandEnd {s t : State} (h : CommandEnd s t) : t.busy = false ∧ t.hostIn = s.hostIn := by
  cases h with
  | refused => exact ⟨rfl, rfl⟩
  | completed _ _ hwork => exact ⟨rfl, hwork.keeps.hostIn⟩

/-- A step uses up the turn at the head (R12). -/
theorem step_hostIn {s t : State} (h : step s = .next t) : t.hostIn = s.hostIn.tail := by
  cases step_cases h with
  | idle hturn => exact rest_eq_tail_of_engineMoves hturn
  | command hturn _ hrun =>
    obtain ⟨-, hkept⟩ := busy_hostIn_of_commandEnd (runCommand_cases hrun)
    exact hkept.trans (rest_eq_tail_of_engineMoves hturn)
  | accept hturn | overrun hturn | readStat hturn | readResp hturn | resetIdle hturn | resetRunning hturn =>
    rw [hturn]; rfl

/-- With no outside turn left a step ends the running command, if there is one (R20, R21). -/
theorem step_busy_of_no_turn {s t : State} (hturns : s.hostIn = []) (h : step s = .next t) : t.busy = false := by
  have hmoves : EngineMoves s [] := .inl ⟨hturns, rfl⟩
  cases hbusy : s.busy with
  | false =>
    rw [step_of_free hbusy hmoves] at h
    cases h
    exact hbusy
  | true =>
    rw [step_of_engineMoves hbusy hmoves] at h
    exact (busy_hostIn_of_commandEnd (runCommand_cases h)).1

theorem runEnded_iff {s : State} : runEnded s = true ↔ s.busy = false ∧ ∀ w, HostTurn.write w ∉ s.hostIn := by
  have hwrite : s.hostIn.any HostTurn.isWrite = false ↔ ∀ w, HostTurn.write w ∉ s.hostIn := by
    rw [List.any_eq_false]
    refine ⟨fun h w hw => h _ hw rfl, fun h turn hturn => ?_⟩
    cases turn with
    | write w => exact absurd hturn (h w)
    | _ => simp [HostTurn.isWrite]
  rw [runEnded, Bool.and_eq_true, Bool.not_eq_true', Bool.not_eq_true', hwrite, and_comm]

/-- More steps than there are turns bring a run to its end: each uses up a turn, and with none left one more ends the
command. -/
theorem exists_runToEnd {n : Nat} {s : State} (hn : s.hostIn.length < n) :
    ∃ t, runToEnd n s = some t ∧ runEnded t = true := by
  induction n generalizing s with
  | zero => omega
  | succ n ih =>
    cases hended : runEnded s with
    | true => exact ⟨s, runToEnd_of_ended _ s hended, hended⟩
    | false =>
      obtain ⟨t, hstep⟩ := step_next s
      have hturns := step_hostIn hstep
      rw [runToEnd_of_step n s t hended hstep]
      cases hhost : s.hostIn with
      | nil =>
        have ht : runEnded t = true :=
          runEnded_iff.2 ⟨step_busy_of_no_turn hhost hstep, by simp [hturns, hhost]⟩
        exact ⟨t, runToEnd_of_ended n t ht, ht⟩
      | cons turn ts =>
        refine ih ?_
        simp only [hhost, List.length_cons] at hn
        simp only [hturns, hhost, List.tail_cons]
        omega

end Sys2Proof.Claims
end

section
/-! CLAIMS. The obligations about every step: the engine reset in a running command (R90, U21), a next state and an end of
every run (R104, Part U), and what a step appends to the bus trace (R9, R10, R38). -/

namespace Sys2Proof.Claims

open Sys2Proof.Machine

/-- Settles O49: the command runs the same without the reset turn (`exec_hostIn`), and `abandon` keeps the first `k` of its
events. -/
theorem engineResetAbandonsTheCommand : Obligations.EngineResetAbandonsTheCommand := by
  intro i s k ts ⟨hbusy, hdecode⟩ hturn
  obtain ⟨full, evs, hexec, hemits⟩ := exec_next_emits i s
  have hrun : runCommand { s with hostIn := ts } = .next { full with hostIn := ts } :=
    (runCommand_of_decode (s := { s with hostIn := ts }) hdecode).trans (exec_hostIn i ts s full hexec)
  have hstep : step s = .next (abandon (evs.take k) { s with hostIn := ts }) :=
    (step_of_turn hturn).trans (resetTurn_of_emits k hbusy hrun (emits_withHostIn hemits ts ts))
  exact ⟨full, evs, abandon (evs.take k) { s with hostIn := ts }, hexec, hemits.trace, hstep, rfl, rfl,
    rfl, rfl, rfl, rfl, rfl, rfl, rfl, rfl, rfl, rfl, rfl⟩

/-- Settles O50: `step_next`, and the run ends within its fuel (`exists_runToEnd`). -/
theorem noInputStopsTheEngine : Obligations.NoInputStopsTheEngine := by
  refine ⟨step_next, fun s => ?_⟩
  obtain ⟨t, ht, hended⟩ := exists_runToEnd (Nat.lt_succ_self s.hostIn.length)
  exact ⟨t, ht, runEnded_iff.1 hended⟩

/-- Settles O51, from what each kind of step emits (`step_emits`). -/
theorem stepAppendsAnsweredEvents : Obligations.StepAppendsAnsweredEvents := by
  intro s t h
  obtain ⟨evs, hemits⟩ := step_emits h
  exact ⟨evs, hemits.trace, hemits.answers, hemits.rxIn, hemits.rdyIn, hemits.cfg⟩

end Sys2Proof.Claims
end

section
/-! SUPPORT. Two runs of one command. A relation between states that the bus primitives keep, and that hides nothing they read
(`Unseen`), is kept by every command: `exec_unseen`. The proof splits on the command once, for every such relation. -/

namespace Sys2Proof.Claims

open Sys2Proof.Machine

/-- Two results with one answer and related states. -/
def SameAnswer {α : Type} (R : State → State → Prop) (p q : α × State) : Prop := q.1 = p.1 ∧ R p.2 q.2

/-- Related states differ in nothing the operations of R8 and the ends of a command read, and these keep them related. -/
structure Unseen (R : State → State → Prop) : Prop where
  cfg        : ∀ {s u}, R s u → u.cfg = s.cfg
  cmd        : ∀ {s u}, R s u → u.cmd = s.cmd
  xchg       : ∀ {s u} out, R s u → SameAnswer R (xchg out s) (xchg out u)
  readRdy    : ∀ {s u}, R s u → SameAnswer R (readRdy s) (readRdy u)
  emit       : ∀ {s u} e, R s u → R (emit e s) (emit e u)
  csDrive    : ∀ {s u} l, R s u → R (csDrive l s) (csDrive l u)
  xportBegin : ∀ {s u}, R s u → R (xportBegin s) (xportBegin u)
  setMode    : ∀ {s u} m, R s u → R { s with mode := m } { u with mode := m }
  finish     : ∀ {s u} r, R s u → R (finish r s) (finish r u)

/-- A difference in MODE alone is unseen (R13). -/
theorem unseen_mode : Unseen fun s u => ∃ m, u = { s with mode := m } where
  cfg := by rintro s _ ⟨m, rfl⟩; rfl
  cmd := by rintro s _ ⟨m, rfl⟩; rfl
  xchg := by rintro s _ out ⟨m, rfl⟩; exact ⟨rfl, m, rfl⟩
  readRdy := by rintro s _ ⟨m, rfl⟩; exact ⟨rfl, m, rfl⟩
  emit := by rintro s _ e ⟨m, rfl⟩; exact ⟨m, rfl⟩
  csDrive := by rintro s _ l ⟨m, rfl⟩; exact ⟨m, rfl⟩
  xportBegin := by rintro s _ ⟨m, rfl⟩; exact ⟨m, rfl⟩
  setMode := by rintro s _ n ⟨m, rfl⟩; exact ⟨n, rfl⟩
  finish := by rintro s _ r ⟨m, rfl⟩; exact ⟨m, rfl⟩

/-- A difference in CS_N, XCFG and VIOL alone is unseen: an exchange records by them, and does nothing else (R17). -/
theorem unseen_lines : Unseen fun s u => ∃ c x v, u = { s with csN := c, xcfg := x, viol := v } where
  cfg := by rintro s _ ⟨c, x, v, rfl⟩; rfl
  cmd := by rintro s _ ⟨c, x, v, rfl⟩; rfl
  xchg := by rintro s _ out ⟨c, x, v, rfl⟩; exact ⟨rfl, c, x, violOnExchange c x v, rfl⟩
  readRdy := by rintro s _ ⟨c, x, v, rfl⟩; exact ⟨rfl, c, x, v, rfl⟩
  emit := by rintro s _ e ⟨c, x, v, rfl⟩; exact ⟨c, x, v, rfl⟩
  csDrive := by rintro s _ l ⟨c, x, v, rfl⟩; exact ⟨l, x, v, rfl⟩
  xportBegin := by rintro s _ ⟨c, x, v, rfl⟩; exact ⟨c, true, v, rfl⟩
  setMode := by rintro s _ n ⟨c, x, v, rfl⟩; exact ⟨c, x, v, rfl⟩
  finish := by rintro s _ r ⟨c, x, v, rfl⟩; exact ⟨c, x, v, rfl⟩

/-- Both outcomes are next states, and these are related. -/
def NextBoth (R : State → State → Prop) (o p : Host.Outcome State Fault Refusal) : Prop :=
  ∃ t w, o = .next t ∧ p = .next w ∧ R t w

section

variable {R : State → State → Prop} {s u : State}

theorem Unseen.xchgs (hR : Unseen R) (outs : List Byte) (h : R s u) : SameAnswer R (xchgs outs s) (xchgs outs u) := by
  induction outs generalizing s u with
  | nil => exact ⟨rfl, h⟩
  | cons out outs ih =>
    obtain ⟨hfirst, hnext⟩ := hR.xchg out h
    obtain ⟨hrest, hlast⟩ := ih hnext
    exact ⟨congrArg₂ List.cons hfirst hrest, hlast⟩

theorem Unseen.memWrite (hR : Unseen R) (a : RegAddr) (n : Nat) (b : List Byte) (h : R s u) :
    R (memWrite a n b s) (memWrite a n b u) := by
  simp only [Machine.memWrite, hR.cfg h]
  exact (hR.xchgs _ h).2

theorem Unseen.memRead (hR : Unseen R) (a : RegAddr) (n : Nat) (h : R s u) :
    SameAnswer R (memRead a n s) (memRead a n u) := by
  simp only [Machine.memRead, hR.cfg h]
  obtain ⟨hbytes, hlast⟩ := hR.xchgs (s.cfg.frameByte :: readCommand a :: List.replicate n 0x00#8) h
  exact ⟨congrArg (List.drop 2) hbytes, hlast⟩

theorem Unseen.modify2 (hR : Unseen R) (a : RegAddr) (f0 f1 : Byte → Byte) (h : R s u) :
    R (modify2 a f0 f1 s) (modify2 a f0 f1 u) := by
  obtain ⟨hbytes, hread⟩ := hR.memRead a 2 h
  simp only [Machine.modify2, hbytes]
  exact hR.memWrite _ _ _ hread

theorem Unseen.applyUpdates (hR : Unseen R) (us : List RegUpdate) (h : R s u) :
    R (applyUpdates us s) (applyUpdates us u) := by
  induction us generalizing s u with
  | nil => exact h
  | cons up ups ih => exact ih (hR.modify2 _ _ _ h)

theorem Unseen.modeActions (hR : Unseen R) (m : ConvMode) (h : R s u) : R (modeActions m s) (modeActions m u) := by
  rw [modeActions_eq_applyUpdates, modeActions_eq_applyUpdates, hR.cfg h]
  exact hR.applyUpdates _ h

theorem Unseen.waitGap (hR : Unseen R) (h : R s u) : R (waitGap s) (waitGap u) := by
  simp only [Machine.waitGap, hR.cfg h]
  exact hR.emit _ h

theorem Unseen.resyncLine (hR : Unseen R) (h : R s u) : R (resyncLine s) (resyncLine u) :=
  hR.csDrive _ (hR.waitGap (hR.csDrive _ h))

theorem Unseen.respond (hR : Unseen R) (f : RespFields) (h : R s u) :
    NextBoth R (.next (respond f s)) (.next (respond f u)) := by
  refine ⟨_, _, rfl, rfl, ?_⟩
  simp only [Machine.respond, hR.cmd h]
  exact hR.finish _ h

theorem Unseen.raiseStatus (hR : Unseen R) (st : Status) (h : R s u) :
    NextBoth R (.next (raiseStatus st s)) (.next (raiseStatus st u)) := by
  refine ⟨_, _, rfl, rfl, ?_⟩
  simp only [Machine.raiseStatus, hR.cmd h]
  exact hR.finish _ h

/-- A command that responds by what it received does so alike in both runs. -/
theorem Unseen.respond_received (hR : Unseen R) (fields : List Byte → RespFields) {p q : List Byte × State}
    (h : SameAnswer R p q) :
    NextBoth R (.next (Machine.respond (fields p.1) p.2)) (.next (Machine.respond (fields q.1) q.2)) := by
  obtain ⟨hbytes, hlast⟩ := h
  rw [hbytes]
  exact hR.respond _ hlast

/-- Every command keeps an unseen relation; RDSAMPLE, which reads MODE, when the modes are the same (R71). -/
theorem exec_unseen (hR : Unseen R) (i : Instr) (h : R s u) (hmode : i = .rdsample → u.mode = s.mode) :
    NextBoth R (exec i s) (exec i u) := by
  cases i with
  | wrreg a len b0 b1 b2 =>
    simp only [exec, execWrreg]
    split
    · exact hR.respond _ (hR.memWrite _ _ _ h)
    · exact hR.raiseStatus _ h
  | rdreg a len =>
    simp only [exec, execRdreg]
    split
    · exact hR.respond_received
        (fun b =>
          { d0 := byteAt b 0
            d1 := if 2 ≤ len.toNat then byteAt b 1 else 0#8
            d2 := if len.toNat = 3 then byteAt b 2 else 0#8 }) (hR.memRead _ _ h)
    · exact hR.raiseStatus _ h
  | reset => exact hR.respond _ (hR.setMode _ (hR.xchgs _ h).2)
  | resync => exact hR.respond _ (hR.resyncLine h)
  | setch a en =>
    simp only [exec, execSetch]
    split
    · exact hR.respond _ (hR.modify2 _ _ _ h)
    · exact hR.raiseStatus _ h
  | setmode a =>
    simp only [exec, execSetmode]
    split
    · exact hR.respond _ (hR.setMode _ (hR.modeActions _ h))
    · exact hR.raiseStatus _ h
  | rdsample =>
    simp only [exec, execRdsample, hmode rfl, hR.cfg h]
    split
    · exact hR.raiseStatus _ h
    · exact hR.respond_received sampleFields (hR.xchgs _ h)
    · exact hR.respond_received sampleFields (hR.memRead _ _ h)
    · exact hR.respond_received sampleFields (hR.memRead _ _ h)
  | setrate code =>
    simp only [exec, execSetrate, hR.cfg h]
    split
    · exact hR.respond _ (hR.modify2 _ _ _ h)
    · exact hR.raiseStatus _ h
  | tosigned b0 b1 b2 => exact hR.respond _ h
  | init =>
    have hready := hR.resyncLine (hR.xportBegin h)
    simp only [exec, execInit, hR.cfg hready]
    exact hR.respond_received
      (fun b => { flag := idValid (byteAt b 0) (byteAt b 1), d0 := byteAt b 0, d1 := byteAt b 1 })
      (hR.memRead _ _ hready)
  | rdyq =>
    obtain ⟨hlevel, hlast⟩ := hR.readRdy h
    simp only [exec, execRdyq, hlevel]
    exact hR.respond _ hlast

/-- The second run ends in a state related to the one the first ended in. -/
theorem exec_next_unseen (hR : Unseen R) {i : Instr} {t : State} (hexec : exec i s = .next t) (h : R s u)
    (hmode : i = .rdsample → u.mode = s.mode) : ∃ w, exec i u = .next w ∧ R t w := by
  obtain ⟨t', w, hs, hu, hw⟩ := exec_unseen hR i h hmode
  cases hs.symm.trans hexec
  exact ⟨w, hu, hw⟩

end

end Sys2Proof.Claims
end

section
/-! CLAIMS. The obligations that compare two runs of one command (R13, R17, R81), and the one about the parameters (R4,
D37). -/

namespace Sys2Proof.Claims

open Sys2Proof.Machine

/-- Settles O54: a difference in MODE is unseen by every command but RDSAMPLE. -/
theorem onlyRdsampleReadsTheMode : Obligations.OnlyRdsampleReadsTheMode := by
  intro i s t m hi hexec
  obtain ⟨_, hw, m', rfl⟩ := exec_next_unseen unseen_mode hexec ⟨m, rfl⟩ fun h => absurd h hi
  exact ⟨m', hw⟩

/-- Settles O55: a difference in CS_N, XCFG and VIOL is unseen by every command, and the modes are the same. -/
theorem violationsNeverAlterACommand : Obligations.ViolationsNeverAlterACommand := by
  intro i s t c x v hexec
  obtain ⟨_, hw, c', x', v', rfl⟩ := exec_next_unseen unseen_lines hexec ⟨c, x, v, rfl⟩ fun _ => rfl
  exact ⟨c', x', v', hw⟩

/-- Settles O60, from the two branches of the range check; a value in range fits its bits, so packing keeps it. -/
theorem configurationOutOfRangeIsRefused : Obligations.ConfigurationOutOfRangeIsRefused := by
  intro frame adc ifm data ident filt gap p o
  unfold Config.build?
  split
  next hrange =>
    obtain ⟨hframe, hadc, hifm, hdata, hident, hfilt, hgap⟩ := hrange
    refine ⟨⟨(nomatch ·), fun h => by omega⟩, fun c hc => ?_⟩
    cases hc
    refine ⟨?_, ?_, ?_, ?_, ?_, ?_, Nat.sub_add_cancel hgap, rfl, rfl⟩
    all_goals
      rw [BitVec.toNat_ofNat]
      exact Nat.mod_eq_of_lt (by omega)
  next hrange => exact ⟨⟨fun _ => by omega, fun _ => rfl⟩, fun c hc => nomatch hc⟩

end Sys2Proof.Claims
end
